-- ==== Sys2Proof/Config.lean ====
section
/-! DEFINITION. The constants of the KIM bit-group codec (spec/00_scope.md R6, R7) and the codes the spec
chooses (R25, R70, R71). The block has no configuration that an operation could change (R28), and nothing in it
is left open as a free value (93_implementation_defined.md section 2), so this file holds no opaque constant. -/

namespace Sys2Proof.Config

/-- First value of class 2 (R6, R90). -/
abbrev classTwoFrom : Nat := 0x80
/-- First value of class 3 (R6, R90). -/
abbrev classThreeFrom : Nat := 0x800
/-- First value of class 4 (R6, R90). -/
abbrev classFourFrom : Nat := 0x10000
/-- 2^21: the first value that does not fit the 21 data bits of class 4, where `OutOfRange` begins (R118, decision
D4, conflict C2). -/
abbrev capacity : Nat := 0x200000
/-- The largest Unicode scalar value (R6, R104). -/
abbrev largestScalar : Nat := 0x10FFFF
/-- First surrogate (R6, R104). -/
abbrev surrogateFirst : Nat := 0xD800
/-- Last surrogate (R6, R104). -/
abbrev surrogateLast : Nat := 0xDFFF

/-- Error code "none" (R25, R72, R180). -/
abbrev errNone : BitVec 2 := 0
/-- Error code of `OutOfRange`: in the encoder's response only, never in the register `err` (R25, R180). -/
abbrev errOutOfRange : BitVec 2 := 1
/-- Error code of `Truncated` (R25, R180). -/
abbrev errTruncated : BitVec 2 := 2
/-- Error code of `InvalidScalarValue` (R25, R180). -/
abbrev errInvalidScalarValue : BitVec 2 := 3

end Sys2Proof.Config
end

