-- ==== Sys2Proof/Word.lean ====
section
/-! DEFINITION. The words of the block: the KIM byte, its group, the accumulator's width, the encoder's operand
(spec/00_scope.md R6, R7, R8), and what can stand before a unit as a request (spec/30_encoding.md R60 to R71). -/

namespace Sys2Proof

/-- A KIM byte: flag in bit 7, group in bits 6 to 0 (R60). -/
abbrev Byte := BitVec 8
/-- A 7-bit group (R6, R60). -/
abbrev Group := BitVec 7
/-- The width `ACC_W` = 21 of the accumulator and of an emitted scalar value (R7, R21, R72). -/
abbrev Acc := BitVec 21
/-- The encoder's operand `enc_v`, `V_W` = 32 bits wide (R7, decision D3). -/
abbrev Value := BitVec 32

/-- What the host can put before the block, field by field: R78 fixes the fields of a request and no packing of
them into one word. `kimByte` is a byte of the KIM byte stream in format KB (R60); `run` is a word in one of the
formats RUN1 to RUN4, first byte of the run first (R63 to R66; assumption log 5 and 6); `encoder` is format EREQ
(R70); `decoder` is format DREQ (R71). -/
inductive Request where
  | kimByte (b : Byte)
  | run (bytes : List Byte)
  | encoder (encOp : BitVec 1) (encV : Value)
  | decoder (decOp : BitVec 2) (decB : Byte)
deriving DecidableEq, Repr

end Sys2Proof
end

