-- ==== Sys2Proof/Machine/Flags.lean ====
section
/-! DEFINITION. The flag computations of the block: the sticky overflow flag (spec/41_bit_datapath.md R102) and
the two validity tests of a terminal byte (R104, R105). The only other flag, `run_open`, is set and cleared by
constants (spec/10_state.md R23, R24). -/

namespace Sys2Proof.Machine

/-- `ovf'` of R102: a 1 bit would leave the top of the accumulator, or one has left it before. -/
def overflowAfter (acc : Acc) (ovf : Bool) : Bool :=
  ovf || acc.extractLsb' 14 7 != 0#7

/-- `IsScalar(x)` of R104. -/
def isScalar (x : Nat) : Bool :=
  decide (x ≤ Config.largestScalar) &&
    !(decide (Config.surrogateFirst ≤ x) && decide (x ≤ Config.surrogateLast))

/-- `Valid(acc', ovf')` of R105. -/
def valid (acc : Acc) (ovf : Bool) : Bool :=
  !ovf && isScalar acc.toNat

end Sys2Proof.Machine
end

