-- ==== Sys2Proof/Machine/Operands.lean ====
section
/-! DEFINITION. The bit-extraction and bit-packing datapath BXP (spec/41_bit_datapath.md): every operand form of
the block. Encoder side: zero extension, slicing, `MakeByte` (R67, R100, R101). Decoder side: flag and group of a
KIM byte, `Pack` (R68, R102). -/

namespace Sys2Proof.Machine

/-- The continuation flag of a KIM byte, bit 7 (R60). -/
def byteFlag (b : Byte) : Bool :=
  b.getLsbD 7

/-- The group of a KIM byte, bits 6 to 0: the document's `b & 0x7F` (R60, R68). -/
def byteGroup (b : Byte) : Group :=
  b.extractLsb' 0 7

/-- `MakeByte(flag, grp) = cat(flag, grp)` (R101). -/
def makeByte (flag : Bool) (grp : Group) : Byte :=
  BitVec.ofBool flag ++ grp

/-- `Extract(v, g, i)`: zero-extend to 7*g bits and take group `i`, group 0 most significant (R67, R100). -/
def extract (v : Value) (g i : Nat) : Group :=
  (v.setWidth (7 * g)).extractLsb' (7 * (g - 1 - i)) 7

/-- `Pack(acc, ovf, grp)`: the group enters below the 14 low bits kept, the bits shifted out are recorded in
`ovf` (R102). -/
def pack (acc : Acc) (ovf : Bool) (grp : Group) : Acc × Bool :=
  (acc.extractLsb' 0 14 ++ grp, overflowAfter acc ovf)

/-- The value the field of a RUN1 word spells, `a = v[6:0]` (R63). -/
def run1Value (a : BitVec 7) : Value :=
  a.setWidth 32

/-- The value the fields of a RUN2 word spell, `a = v[10:7]`, `b = v[6:0]` (R64). -/
def run2Value (a : BitVec 4) (b : BitVec 7) : Value :=
  (a ++ b).setWidth 32

/-- The value the fields of a RUN3 word spell, `a = v[15:14]`, `b = v[13:7]`, `c = v[6:0]` (R65). -/
def run3Value (a : BitVec 2) (b c : BitVec 7) : Value :=
  (a ++ b ++ c).setWidth 32

/-- The value the fields of a RUN4 word spell, `a = v[20:14]`, `b = v[13:7]`, `c = v[6:0]` (R66). -/
def run4Value (a b c : BitVec 7) : Value :=
  (a ++ b ++ c).setWidth 32

/-- The value of the groups held, read over unbounded integers: the document's formula `A <- A * 128 + grp` applied
to each group in turn (R62, R103). It is the meaning `pack` is held against, not a register. -/
def naturalValue (a : Nat) (groups : List Group) : Nat :=
  groups.foldl (fun n g => n * 128 + g.toNat) a

end Sys2Proof.Machine
end

