-- ==== Sys2Proof/Syntax.lean ====
section
/-! DEFINITION. The operations and forms of the block: one constructor for each of the eleven rows of
spec/opcode_table.json (spec/30_encoding.md R78), its arguments the fields of the row's pattern. -/

namespace Sys2Proof

/-- The eleven rows of the opcode table, in the table's order (R78). -/
inductive Instr where
  /-- KIM.CONT `1ggggggg`: a continuation byte (R61, R132). -/
  | kimCont (g : Group)
  /-- KIM.TERM `0ggggggg`: a terminal byte (R61, R133). -/
  | kimTerm (g : Group)
  /-- RUN1 `0aaaaaaa`: the encoder's run for a class-1 value, `a = v[6:0]` (R63, R113). -/
  | run1 (a : BitVec 7)
  /-- RUN2 `1000aaaa0bbbbbbb`: class 2, `a = v[10:7]`, `b = v[6:0]` (R64, R114). -/
  | run2 (a : BitVec 4) (b : BitVec 7)
  /-- RUN3 `100000aa1bbbbbbb0ccccccc`: class 3, `a = v[15:14]`, `b = v[13:7]`, `c = v[6:0]` (R65, R115). -/
  | run3 (a : BitVec 2) (b : BitVec 7) (c : BitVec 7)
  /-- RUN4 `1aaaaaaa1bbbbbbb0ccccccc`: class 4, `a = v[20:14]`, `b = v[13:7]`, `c = v[6:0]` (R66, R116). -/
  | run4 (a : BitVec 7) (b : BitVec 7) (c : BitVec 7)
  /-- CLASSIFY, `enc_op` = 0 (R70, R92). -/
  | classify (v : Value)
  /-- ENC, `enc_op` = 1 (R70, R110). -/
  | enc (v : Value)
  /-- DEC_BYTE, `dec_op` = 0b00 (R71, R131). -/
  | decByte (b : Byte)
  /-- DEC_END, `dec_op` = 0b01; `x` is the ignored `dec_b` (R71, R134). -/
  | decEnd (x : Byte)
  /-- DEC_CLEAR, `dec_op` = 0b10; `x` is the ignored `dec_b` (R71, R135). -/
  | decClear (x : Byte)
deriving DecidableEq, Repr

end Sys2Proof
end

