-- ==== Sys2Proof/WellFormed.lean ====
section
/-! DEFINITION. Which terms of `Instr` the spec's formats admit: a RUN form belongs to one length class, so the
value its fields spell lies in that class (spec/30_encoding.md R63 to R66, the "condition" of each RUN row of
spec/opcode_table.json). Every other row admits every value of its fields. -/

namespace Sys2Proof

/-- The conditions of R63 to R66 on the fields. The upper bound of each class holds by the fields' widths. -/
def Instr.wellFormed : Instr → Bool
  | .kimCont _ => true
  | .kimTerm _ => true
  | .run1 _ => true
  | .run2 a b => decide (Config.classTwoFrom ≤ (a ++ b).toNat)
  | .run3 a b c => decide (Config.classThreeFrom ≤ (a ++ b ++ c).toNat)
  | .run4 a b c => decide (Config.classFourFrom ≤ (a ++ b ++ c).toNat)
  | .classify _ => true
  | .enc _ => true
  | .decByte _ => true
  | .decEnd _ => true
  | .decClear _ => true

end Sys2Proof
end

