-- ==== Sys2Proof/Decode.lean ====
section
/-! DEFINITION. Decoding of requests into instructions, the encoder beside it, and the opcode table's own numbering
of words. The decoder reads the patterns of spec/opcode_table.json (spec/30_encoding.md R60 to R73, R78); it is
total, and what it rejects it rejects by name. -/

namespace Sys2Proof

open Sys2Proof.Machine

/-- Why a request is no row of the opcode table. -/
inductive DecodeError where
  /-- `dec_op` = 0b11, which R73 reserves. It has no row and no constructor (R78); the step gives it its effect. -/
  | reservedDecOp
  /-- The bytes on the run port match none of the patterns of RUN1 to RUN4 (R63 to R66). -/
  | notARunForm
deriving DecidableEq, Repr

/-- The form of a KIM byte: bit 7 selects it (R61). -/
def decodeKimByte (b : Byte) : Instr :=
  if byteFlag b then .kimCont (byteGroup b) else .kimTerm (byteGroup b)

/-- The form of a run the encoder can write: its length, the flags and the padding zeros select it (R63 to R66).
RUN3 is the case of RUN4 in which the top five bits of the first group are zero (R66), so it is tried first. -/
def decodeRun : List Byte → Except DecodeError Instr
  | [b0] => if byteFlag b0 then .error .notARunForm else .ok (.run1 (byteGroup b0))
  | [b0, b1] =>
    if b0.extractLsb' 4 4 = 0b1000#4 ∧ byteFlag b1 = false then
      .ok (.run2 (b0.extractLsb' 0 4) (byteGroup b1))
    else .error .notARunForm
  | [b0, b1, b2] =>
    if byteFlag b0 = true ∧ byteFlag b1 = true ∧ byteFlag b2 = false then
      if b0.extractLsb' 2 5 = 0#5 then
        .ok (.run3 (b0.extractLsb' 0 2) (byteGroup b1) (byteGroup b2))
      else .ok (.run4 (byteGroup b0) (byteGroup b1) (byteGroup b2))
    else .error .notARunForm
  | _ => .error .notARunForm

/-- Decoding of any request (R61, R63 to R66, R70, R71, R73). -/
def decode : Request → Except DecodeError Instr
  | .kimByte b => .ok (decodeKimByte b)
  | .run bytes => decodeRun bytes
  | .encoder op v => if op = 0#1 then .ok (.classify v) else .ok (.enc v)
  | .decoder op b =>
    if op = 0b00#2 then .ok (.decByte b)
    else if op = 0b01#2 then .ok (.decEnd b)
    else if op = 0b10#2 then .ok (.decClear b)
    else .error .reservedDecOp

/-- The request that stands for an instruction, written from the same formats (R61, R63 to R66, R70, R71). -/
def encode : Instr → Request
  | .kimCont g => .kimByte (1#1 ++ g)
  | .kimTerm g => .kimByte (0#1 ++ g)
  | .run1 a => .run [0#1 ++ a]
  | .run2 a b => .run [0b1000#4 ++ a, 0#1 ++ b]
  | .run3 a b c => .run [0b100000#6 ++ a, 1#1 ++ b, 0#1 ++ c]
  | .run4 a b c => .run [1#1 ++ a, 1#1 ++ b, 0#1 ++ c]
  | .classify v => .encoder 0#1 v
  | .enc v => .encoder 1#1 v
  | .decByte b => .decoder 0b00#2 b
  | .decEnd x => .decoder 0b01#2 x
  | .decClear x => .decoder 0b10#2 x

/-- The request that a word of the opcode table stands for, the word numbered as the table numbers it: the pattern
read as one number, its leftmost bit the most significant (98_reader.md, R78), so the first byte of a run is the
most significant one. A row of 8 bits is a KIM byte; of 16 bits a RUN2 word when it needs more than ten bits, else
a ten-bit DREQ word; of 24 bits a RUN3 or RUN4 word; of 40 bits a 33-bit EREQ word. Anything else is no row's word
and becomes an empty run, which decodes to nothing (assumption log 6 and 7). -/
def tableRequest (nbits w : Nat) : Request :=
  if nbits = 8 ∧ w < 0x100 then .kimByte (BitVec.ofNat 8 w)
  else if nbits = 16 ∧ w < 0x400 then .decoder (BitVec.ofNat 2 (w / 0x100)) (BitVec.ofNat 8 w)
  else if nbits = 16 ∧ w < 0x10000 then .run [BitVec.ofNat 8 (w / 0x100), BitVec.ofNat 8 w]
  else if nbits = 24 ∧ w < 0x1000000 then
    .run [BitVec.ofNat 8 (w / 0x10000), BitVec.ofNat 8 (w / 0x100), BitVec.ofNat 8 w]
  else if nbits = 40 ∧ w < 0x200000000 then
    .encoder (BitVec.ofNat 1 (w / 0x100000000)) (BitVec.ofNat 32 w)
  else .run []

/-- The instruction the decoder reads from a word of the opcode table of `nbits` bits (whole bytes). -/
def decodeTableWord (nbits w : Nat) : Option Instr :=
  match decode (tableRequest nbits w) with
  | .ok i => some i
  | .error _ => none

/-- The table's word for an instruction, as (whole-byte size in bits, number): each row's pattern of
spec/opcode_table.json, leftmost bit most significant. -/
def tableWord : Instr → Nat × Nat
  | .kimCont g => (8, (1#1 ++ g).toNat)
  | .kimTerm g => (8, (0#1 ++ g).toNat)
  | .run1 a => (8, (0#1 ++ a).toNat)
  | .run2 a b => (16, (0b1000#4 ++ a ++ 0#1 ++ b).toNat)
  | .run3 a b c => (24, (0b100000#6 ++ a ++ 1#1 ++ b ++ 0#1 ++ c).toNat)
  | .run4 a b c => (24, (1#1 ++ a ++ 1#1 ++ b ++ 0#1 ++ c).toNat)
  | .classify v => (40, (0#1 ++ v).toNat)
  | .enc v => (40, (1#1 ++ v).toNat)
  | .decByte b => (16, (0b00#2 ++ b).toNat)
  | .decEnd x => (16, (0b01#2 ++ x).toNat)
  | .decClear x => (16, (0b10#2 ++ x).toNat)

end Sys2Proof
end

