-- ==== Sys2Proof/Machine/Lcl.lean ====
section
/-! DEFINITION. The length-class LUT LCL (spec/40_length_class_lut.md R90): constant, stateless (R91, R93). -/

namespace Sys2Proof.Machine

/-- One row of the class table: class, data bits D, KIM byte count g, padding bits (R90). -/
structure LclRow where
  lengthClass : Nat
  dataBits : Nat
  byteCount : Nat
  padding : Nat
deriving DecidableEq, Repr

/-- `LCL(v)`: the thresholds tested in order; the last row has no upper limit (R90). -/
def lcl (v : Value) : LclRow :=
  if v.toNat < Config.classTwoFrom then ⟨1, 7, 1, 0⟩
  else if v.toNat < Config.classThreeFrom then ⟨2, 11, 2, 3⟩
  else if v.toNat < Config.classFourFrom then ⟨3, 16, 3, 5⟩
  else ⟨4, 21, 3, 0⟩

end Sys2Proof.Machine
end

