-- ==== Sys2Proof/Machine/State.lean ====
section
/-! DEFINITION. The state of one instance of the block. The spec gives it six registers, all in the decoder unit
(spec/10_state.md R20); the encoder unit, the LCL and the datapath hold none. Beside them stand two fields of the
MODEL's own: what the host has yet to present, and the response of the step just taken (assumption log 1 and 2).
There is no memory: the block has no address space (spec/20_memory.md R40). -/

namespace Sys2Proof.Machine

/-- The registers of the bit-group decoder unit BGD: the complete state of the block (R20 to R27). -/
structure Bgd where
  /-- The accumulator, 21 bits (R21). -/
  acc : Acc
  /-- Sticky: a 1 bit has been shifted out of `acc` in the open run (R22). -/
  ovf : Bool
  /-- The last byte consumed was a continuation byte (R23). -/
  runOpen : Bool
  /-- Bytes consumed without error in the current stream; a natural number that never wraps (R27, D13). -/
  off : Nat
  /-- The code of the first error of the current stream, 0 when none (R25). -/
  err : BitVec 2
  /-- `off` when the error was raised; 0 while `err` = 0 (R26). -/
  errOff : Nat
deriving DecidableEq, Repr

/-- Format ERSP, the response of CLASSIFY and ENC (R72, decisions D2, D6, D7, D10). -/
structure EncResponse where
  lcClass : BitVec 3
  lcD : BitVec 5
  lcG : BitVec 2
  lcPad : BitVec 3
  encLen : BitVec 2
  encB0 : Byte
  encB1 : Byte
  encB2 : Byte
  encErr : BitVec 2
deriving DecidableEq, Repr

/-- Format DRSP, the response of the decoder unit (R72, decisions D2, D10). -/
structure DecResponse where
  outValid : Bool
  scalar : Acc
  done : Bool
  decErr : BitVec 2
deriving DecidableEq, Repr

/-- A response, tagged with the unit that gave it: the two interfaces are independent (D2). -/
inductive Response where
  | encoder (r : EncResponse)
  | decoder (r : DecResponse)
deriving DecidableEq, Repr

/-- One thing the host does to the block: present a request, or pulse the RESET input, which is not an operation
(R12, R210; assumption log 1 and 3). -/
inductive HostEvent where
  | request (r : Request)
  | reset
deriving DecidableEq, Repr

/-- One instance of the block, with what the host has yet to present to it. -/
structure State where
  /-- The decoder unit's six registers. -/
  bgd : Bgd
  /-- MODEL's own: the host's coming events, the next one first (R12: the host chooses the order). -/
  inbox : List HostEvent
  /-- MODEL's own: the response given by the step that led here; no meaning reads it (R30). -/
  rsp : Option Response
deriving DecidableEq, Repr

/-- Faults: none. R180: "no operation can fail in any other way: there is no crash, no undefined result, no hang";
the three errors of the spec are outcomes of a step (`err`, `encErr`, `decErr`), never its absence (R143). The type
is empty, so that no step of the model can fault: nothing raises it. -/
inductive Fault where
deriving DecidableEq, Repr

/-- Refusals. -/
inductive Refusal where
  /-- An instruction of the opcode table without a meaning. No arm of `exec` answers it: every row has its meaning.
  Safe: it would stop the machine. -/
  | notModelled (mnemonic : String)
  /-- Raised by the step, for bytes on the model's own run port that match none of the patterns RUN1 to RUN4. They are
  no instruction of the spec (R63 to R66); no request of the spec's interfaces (R70, R71) and no KIM byte (R61) is
  ever refused. Safe: the machine stops where the spec describes no operation. -/
  | notARunForm
deriving DecidableEq, Repr

/-- Right after RESET: all six registers are 0 (R33, R210); nothing is pending and no response has been given
(assumption log 12). -/
def State.reset : State where
  bgd := { acc := 0, ovf := false, runOpen := false, off := 0, err := 0, errOff := 0 }
  inbox := []
  rsp := none

end Sys2Proof.Machine
end

