-- ==== Sys2Proof/Machine/Ops.lean ====
section
/-! DEFINITION. The operations shared by the meanings: giving a response, emitting a run, consuming a byte, raising a
decoder error and leaving it (the block's exception entry and return, spec/60_exceptions.md), the reserved command
and the RESET input. -/

namespace Sys2Proof.Machine

/-! ### Responses -/

/-- The response's class fields as the LCL gives them, everything else 0: what CLASSIFY answers (R92). -/
def EncResponse.ofLcl (row : LclRow) : EncResponse where
  lcClass := BitVec.ofNat 3 row.lengthClass
  lcD := BitVec.ofNat 5 row.dataBits
  lcG := BitVec.ofNat 2 row.byteCount
  lcPad := BitVec.ofNat 3 row.padding
  encLen := 0
  encB0 := 0
  encB1 := 0
  encB2 := 0
  encErr := Config.errNone

/-- `EmitBytes(s)` (R10): first byte in lane 0, lanes at index `enc_len` and above 0 (R45, R72, D7). -/
def EncResponse.emitBytes (row : LclRow) (bytes : List Byte) : EncResponse :=
  { EncResponse.ofLcl row with
    encLen := BitVec.ofNat 2 bytes.length
    encB0 := bytes.getD 0 0
    encB1 := bytes.getD 1 0
    encB2 := bytes.getD 2 0 }

/-- `raise OutOfRange`: no byte is emitted, the class fields stay the LCL's (R110, R118, R185, D6). -/
def EncResponse.raiseOutOfRange (row : LclRow) : EncResponse :=
  { EncResponse.ofLcl row with encErr := Config.errOutOfRange }

/-- The bytes a host appends to its stream: the first `enc_len` lanes, in lane order (R45, duty H2 of R216). -/
def EncResponse.bytes (r : EncResponse) : List Byte :=
  [r.encB0, r.encB1, r.encB2].take r.encLen.toNat

/-- A decoder response that emits nothing and reports no completion (R72). -/
def DecResponse.silent (err : BitVec 2) : DecResponse where
  outValid := false
  scalar := 0
  done := false
  decErr := err

/-- `EmitScalar(v)` (R10, R72). -/
def DecResponse.emitScalar (v : Acc) : DecResponse where
  outValid := true
  scalar := v
  done := false
  decErr := Config.errNone

/-- The response of a DEC_END that found the stream complete (R72, R134). -/
def DecResponse.complete : DecResponse where
  outValid := false
  scalar := 0
  done := true
  decErr := Config.errNone

/-! ### The encoder unit: functions of the operand alone (R20) -/

/-- `EncRun(v)`: the bytes of rule R110's loop, group i with flag 1 unless it is the last (R110, R111). -/
def encRun (v : Value) : List Byte :=
  (List.range (lcl v).byteCount).map fun i =>
    makeByte (decide (i < (lcl v).byteCount - 1)) (extract v (lcl v).byteCount i)

/-- The encoder's answer to ENC (R110, R117, R118). -/
def encAnswer (v : Value) : EncResponse :=
  if Config.capacity ≤ v.toNat then EncResponse.raiseOutOfRange (lcl v)
  else EncResponse.emitBytes (lcl v) (encRun v)

/-- The encoder's answer where one output form is named: that form's bytes when the value is of the form's class
(R113 to R116); a value of another class is not written in this form, and the encoder's answer for it is its own
(R110; assumption log 5). -/
def formAnswer (lengthClass : Nat) (v : Value) (bytes : List Byte) : EncResponse :=
  if (lcl v).lengthClass = lengthClass then EncResponse.emitBytes (lcl v) bytes else encAnswer v

/-- An encoder operation: it reads no state and writes none; its response is all it gives (R20, R24, R49). -/
def State.encoderOp (answer : EncResponse) (s : State) : Host.Outcome State Fault Refusal :=
  .next { s with rsp := some (.encoder answer) }

/-! ### The decoder unit -/

/-- The initial state: every register 0 (R33). -/
def Bgd.initial : Bgd where
  acc := 0
  ovf := false
  runOpen := false
  off := 0
  err := Config.errNone
  errOff := 0

/-- ERROR ENTRY, the one way a decoder operation raises an error: `err` takes the code, `err_off` the value of
`off`, nothing else is written and nothing is emitted (R185, R186). -/
def Bgd.raiseError (code : BitVec 2) (d : Bgd) : Bgd × DecResponse :=
  ({ d with err := code, errOff := d.off }, DecResponse.silent code)

/-- ERROR RETURN, and the clearing of every register in any state: the initial state, nothing restored (R135,
R189). -/
def Bgd.clear : Bgd × DecResponse :=
  (Bgd.initial, DecResponse.silent Config.errNone)

/-- While the decoder is in ERR an operation changes nothing and answers with the error it holds (R188). -/
def Bgd.unlessError (op : Bgd → Bgd × DecResponse) (d : Bgd) : Bgd × DecResponse :=
  if d.err = Config.errNone then op d else (d, DecResponse.silent d.err)

/-- The KIM.CONT step of R132: the group is shifted in, the run stays open, nothing is validated. -/
def Bgd.continueRun (g : Group) (d : Bgd) : Bgd × DecResponse :=
  ({ d with
      acc := (pack d.acc d.ovf g).1
      ovf := (pack d.acc d.ovf g).2
      runOpen := true
      off := d.off + 1 }, DecResponse.silent Config.errNone)

/-- The KIM.TERM step of R133: the group is shifted in and the number tested; it is emitted and the run cleared, or
`InvalidScalarValue` is raised. -/
def Bgd.endRun (g : Group) (d : Bgd) : Bgd × DecResponse :=
  if valid (pack d.acc d.ovf g).1 (pack d.acc d.ovf g).2 then
    ({ d with acc := 0, ovf := false, runOpen := false, off := d.off + 1 },
      DecResponse.emitScalar (pack d.acc d.ovf g).1)
  else d.raiseError Config.errInvalidScalarValue

/-- The byte step of R131: bit 7 of the byte selects the form (R61). -/
def Bgd.consumeByte (b : Byte) (d : Bgd) : Bgd × DecResponse :=
  if byteFlag b then d.continueRun (byteGroup b) else d.endRun (byteGroup b)

/-- The end-of-stream step of R134: `Truncated` on an open run, else the initial state. -/
def Bgd.endStream (d : Bgd) : Bgd × DecResponse :=
  if d.runOpen then d.raiseError Config.errTruncated else (Bgd.initial, DecResponse.complete)

/-- A decoder operation: the registers and the response its function gives (R10: all writes together at the
end). -/
def State.decoderOp (op : Bgd → Bgd × DecResponse) (s : State) : Host.Outcome State Fault Refusal :=
  .next { s with bgd := (op s.bgd).1, rsp := some (.decoder (op s.bgd).2) }

/-- The reserved command `dec_op` = 0b11: ignored in every state; the response repeats `err` (R73, R188). -/
def State.reservedOp (s : State) : Host.Outcome State Fault Refusal :=
  s.decoderOp fun d => (d, DecResponse.silent d.err)

/-- The RESET input: every decoder register holds its reset value when it is released, and no operation has been
answered (R210, R211). -/
def State.resetInput (s : State) : State :=
  { s with bgd := Bgd.initial, rsp := none }

/-- Nothing presented: the block holds its six registers between requests (R195); the last response is not held
(R30). -/
def State.idle (s : State) : State :=
  { s with rsp := none }

end Sys2Proof.Machine
end

