-- ==== Sys2Proof/Machine/DecoderUnit.lean ====
section
/-! DEFINITION. The operations of the decoder unit BGD (spec/43_decoder.md): DEC_BYTE and the two byte forms it
splits into, DEC_END and DEC_CLEAR. -/

namespace Sys2Proof.Machine

/-- KIM.CONT (R131, R132): a continuation byte with group `g`. -/
def execKimCont (g : Group) (s : State) : Host.Outcome State Fault Refusal :=
  s.decoderOp (Bgd.unlessError (Bgd.continueRun g))

/-- KIM.TERM (R131, R133): a terminal byte with group `g`. -/
def execKimTerm (g : Group) (s : State) : Host.Outcome State Fault Refusal :=
  s.decoderOp (Bgd.unlessError (Bgd.endRun g))

/-- DEC_BYTE (R131). -/
def execDecByte (b : Byte) (s : State) : Host.Outcome State Fault Refusal :=
  s.decoderOp (Bgd.unlessError (Bgd.consumeByte b))

/-- DEC_END (R134); `dec_b` is ignored (R71). -/
def execDecEnd (_x : Byte) (s : State) : Host.Outcome State Fault Refusal :=
  s.decoderOp (Bgd.unlessError Bgd.endStream)

/-- DEC_CLEAR (R135): it acts in every state; `dec_b` is ignored (R71). -/
def execDecClear (_x : Byte) (s : State) : Host.Outcome State Fault Refusal :=
  s.decoderOp fun _ => Bgd.clear

end Sys2Proof.Machine
end

