-- ==== Sys2Proof/Machine/EncoderUnit.lean ====
section
/-! DEFINITION. The operations of the encoder unit BGE: CLASSIFY (spec/40_length_class_lut.md), ENC and its four
output forms (spec/42_encoder.md). -/

namespace Sys2Proof.Machine

/-- RUN1 (R113): `B_0 = cat(0, v[6:0])`. -/
def execRun1 (a : BitVec 7) (s : State) : Host.Outcome State Fault Refusal :=
  s.encoderOp (formAnswer 1 (run1Value a) [makeByte false a])

/-- RUN2 (R114): `B_0 = cat(1, 0b000, v[10:7])`, `B_1 = cat(0, v[6:0])`. -/
def execRun2 (a : BitVec 4) (b : BitVec 7) (s : State) : Host.Outcome State Fault Refusal :=
  s.encoderOp (formAnswer 2 (run2Value a b) [makeByte true (0b000#3 ++ a), makeByte false b])

/-- RUN3 (R115): `B_0 = cat(1, 0b00000, v[15:14])`, `B_1 = cat(1, v[13:7])`, `B_2 = cat(0, v[6:0])`. -/
def execRun3 (a : BitVec 2) (b c : BitVec 7) (s : State) : Host.Outcome State Fault Refusal :=
  s.encoderOp (formAnswer 3 (run3Value a b c)
    [makeByte true (0b00000#5 ++ a), makeByte true b, makeByte false c])

/-- RUN4 (R116): `B_0 = cat(1, v[20:14])`, `B_1 = cat(1, v[13:7])`, `B_2 = cat(0, v[6:0])`. -/
def execRun4 (a b c : BitVec 7) (s : State) : Host.Outcome State Fault Refusal :=
  s.encoderOp (formAnswer 4 (run4Value a b c) [makeByte true a, makeByte true b, makeByte false c])

/-- CLASSIFY (R92): the LCL's row, no byte, no error for any operand. -/
def execClassify (v : Value) (s : State) : Host.Outcome State Fault Refusal :=
  s.encoderOp (EncResponse.ofLcl (lcl v))

/-- ENC (R110): the run of the value, or `OutOfRange`. -/
def execEnc (v : Value) (s : State) : Host.Outcome State Fault Refusal :=
  s.encoderOp (encAnswer v)

end Sys2Proof.Machine
end

