-- ==== Sys2Proof/Machine/Dispatch.lean ====
section
/-! DEFINITION. The meaning of every instruction, one arm per row of spec/opcode_table.json. -/

namespace Sys2Proof.Machine

/-- One direct call of the meaning of each row (R78). -/
def exec (i : Instr) (s : State) : Host.Outcome State Fault Refusal :=
  match i with
  | .kimCont g => Sys2Proof.Machine.execKimCont g s
  | .kimTerm g => Sys2Proof.Machine.execKimTerm g s
  | .run1 a => Sys2Proof.Machine.execRun1 a s
  | .run2 a b => Sys2Proof.Machine.execRun2 a b s
  | .run3 a b c => Sys2Proof.Machine.execRun3 a b c s
  | .run4 a b c => Sys2Proof.Machine.execRun4 a b c s
  | .classify v => Sys2Proof.Machine.execClassify v s
  | .enc v => Sys2Proof.Machine.execEnc v s
  | .decByte b => Sys2Proof.Machine.execDecByte b s
  | .decEnd x => Sys2Proof.Machine.execDecEnd x s
  | .decClear x => Sys2Proof.Machine.execDecClear x s

end Sys2Proof.Machine
end

