-- ==== Sys2Proof/Machine/Serve.lean ====
section
/-! DEFINITION. How a step takes the host's next event and serves it (spec/00_scope.md R11, R12; spec/43_decoder.md
R143). The block fetches nothing (spec/20_memory.md R55): the host presents each request. -/

namespace Sys2Proof.Machine

/-- One request as one atomic transaction: an operation of the table by `exec`, the reserved decoder code by its own
rule (R73); bytes on the run port that are no form are refused. -/
def serve (r : Request) (s : State) : Host.Outcome State Fault Refusal :=
  match decode r with
  | .ok i => exec i s
  | .error .reservedDecOp => s.reservedOp
  | .error .notARunForm => .refused .notARunForm

/-- The host's next event, taken from the inbox and served; with none, the block idles (R12, R195, R210). -/
def takeEvent (s : State) : Host.Outcome State Fault Refusal :=
  match s.inbox with
  | [] => .next s.idle
  | .reset :: rest => .next { s with inbox := rest }.resetInput
  | .request r :: rest => serve r { s with inbox := rest }

/-- The host puts a word of the opcode table before the block as its next request (assumption log 7 and 13). -/
def presentWord (nbits w : Nat) (s : State) : State :=
  { s with inbox := .request (tableRequest nbits w) :: s.inbox }

end Sys2Proof.Machine
end

