-- ==== Sys2Proof/Machine/Step.lean ====
section
/-! DEFINITION. The step: one atomic transaction (spec/00_scope.md R11). -/

namespace Sys2Proof.Machine

/-- One step of one instance of the block: the host's next event is served. -/
def step (s : State) : Host.Outcome State Fault Refusal :=
  takeEvent s

/-- The word stands first in the inbox, so the next step serves exactly it. -/
def State.withFetchWord (s : State) (nbits w : Nat) : State :=
  presentWord nbits w s

end Sys2Proof.Machine
end

