-- ==== Sys2Proof/Machine/Streams.lean ====
section
/-! DEFINITION. The block over whole texts (spec/44_stream_operations.md): `EncodeStream`, `DecodeStream`, and the
host's side of the pseudo-operations ENC_STREAM and DEC_STREAM, which issue one operation after another and read
the responses (spec/30_encoding.md R77). -/

namespace Sys2Proof.Machine

/-- The three errors by name (R180). -/
inductive StreamError where
  | outOfRange
  | truncated
  | invalidScalarValue
deriving DecidableEq, Repr

/-- What a stream operation gives: everything, or an error with its position and nothing else (R160 to R163). -/
inductive StreamResult (α : Type) where
  | ok (out : List α)
  | err (kind : StreamError) (pos : Nat)
deriving DecidableEq, Repr

/-- `EncodeStream(vs)` of R160. -/
def encodeStream (vs : List Value) : StreamResult Byte :=
  match vs.findIdx? (fun v => decide (Config.capacity ≤ v.toNat)) with
  | some k => .err .outOfRange k
  | none => .ok (vs.flatMap encRun)

/-- The loop of R162 from decoder state `d` with the values `out` already collected: each byte by DEC_BYTE, then
DEC_END, stopping at the first error. Beside the result, the decoder state left behind. -/
def decodeFrom (d : Bgd) (out : List Acc) : List Byte → Bgd × StreamResult Acc
  | [] =>
    let (d', r) := d.unlessError Bgd.endStream
    if r.decErr = Config.errNone then (d', .ok out) else (d', .err .truncated d'.errOff)
  | b :: bs =>
    let (d', r) := d.unlessError (Bgd.consumeByte b)
    if r.decErr = Config.errNone then
      decodeFrom d' (if r.outValid then out ++ [r.scalar] else out) bs
    else (d', .err .invalidScalarValue d'.errOff)

/-- `DecodeStream(bs)` of R162: from the initial state. -/
def decodeStream (bs : List Byte) : StreamResult Acc :=
  (decodeFrom Bgd.initial [] bs).2

/-- Issue the operations one after another; the responses in order, and the state after the last one performed. An
operation that gives no next state ends the sequence. -/
def issue : List Instr → State → State × List Response
  | [], s => (s, [])
  | i :: is, s =>
    match exec i s with
    | .next s' =>
      let (t, rs) := issue is s'
      (t, s'.rsp.toList ++ rs)
    | .fault _ => (s, [])
    | .refused _ => (s, [])

/-- ENC_STREAM expanded (R77). -/
def encStreamOps (vs : List Value) : List Instr :=
  vs.map .enc

/-- DEC_STREAM expanded (R77). -/
def decStreamOps (bs : List Byte) : List Instr :=
  bs.map .decByte ++ [.decEnd 0]

/-- The host reading encoder responses: it appends each run in order (duty H2), and on the first error it discards
every byte and reports the index of the value (duty H3, R161). `k` responses have been read, `out` holds the bytes
so far; a response of the other unit is not its concern. -/
def readEncode (k : Nat) (out : List Byte) : List Response → StreamResult Byte
  | [] => .ok out
  | .encoder r :: rs =>
    if r.encErr = Config.errNone then readEncode (k + 1) (out ++ r.bytes) rs else .err .outOfRange k
  | .decoder _ :: rs => readEncode k out rs

/-- The host reading decoder responses: it collects each emitted value, and on the first error it discards them all
(duty H7, R163) and reports the kind with the offset read from the register `err_off`, here `errOff` (R162, R191). -/
def readDecode (errOff : Nat) (out : List Acc) : List Response → StreamResult Acc
  | [] => .ok out
  | .decoder r :: rs =>
    if r.decErr = Config.errNone then
      readDecode errOff (if r.outValid then out ++ [r.scalar] else out) rs
    else if r.decErr = Config.errTruncated then .err .truncated errOff
    else .err .invalidScalarValue errOff
  | .encoder _ :: rs => readDecode errOff out rs

/-- A text: a sequence of legal scalar values (R104, R167, duty H1 of R216). -/
def legalText (vs : List Value) : Bool :=
  vs.all fun v => isScalar v.toNat

/-- A well-formed KIM byte sequence: empty, or its last byte has flag 0 (the document's definition, R173). -/
def wellFormedBytes (bs : List Byte) : Bool :=
  match bs.getLast? with
  | none => true
  | some b => !byteFlag b

/-- The bytes of a run whose groups before the last are `gs` and whose last group is `g` (R62). -/
def runOf (gs : List Group) (g : Group) : List Byte :=
  gs.map (makeByte true) ++ [makeByte false g]

end Sys2Proof.Machine
end

