-- ==== Sys2Proof/Safety.lean ====
section
/-! DEFINITION. The terms in which statements speak of the block's runs: the invariants of the reachable state
(spec/10_state.md R31) and the three conditions of the decoder (R32). -/

namespace Sys2Proof.Machine

/-- The five invariants of R31. -/
structure Bgd.Inv (d : Bgd) : Prop where
  idleIsClear : d.runOpen = false → d.acc = 0 ∧ d.ovf = false
  neverOutOfRange : d.err ≠ Config.errOutOfRange
  offsetOnlyWithError : d.err = Config.errNone → d.errOff = 0
  truncatedAtEnd : d.err = Config.errTruncated → d.runOpen = true ∧ d.errOff = d.off
  invalidAtByte : d.err = Config.errInvalidScalarValue → d.errOff = d.off

/-- The decoder's abstract conditions (R32). -/
inductive Condition where
  | idle
  | run
  | err
deriving DecidableEq, Repr

/-- The condition a decoder is in (R32). -/
def Bgd.condition (d : Bgd) : Condition :=
  if d.err ≠ Config.errNone then .err else if d.runOpen then .run else .idle

/-- Which rows of the opcode table the encoder unit performs (R78). -/
def isEncoderOp : Instr → Bool
  | .kimCont _ => false
  | .kimTerm _ => false
  | .run1 _ => true
  | .run2 _ _ => true
  | .run3 _ _ _ => true
  | .run4 _ _ _ => true
  | .classify _ => true
  | .enc _ => true
  | .decByte _ => false
  | .decEnd _ => false
  | .decClear _ => false

/-- The KIM byte an operation hands to the decoder, if it hands one (R131). -/
def byteOf : Instr → Option Byte
  | .kimCont g => some (makeByte true g)
  | .kimTerm g => some (makeByte false g)
  | .decByte b => some b
  | .run1 _ => none
  | .run2 _ _ => none
  | .run3 _ _ _ => none
  | .run4 _ _ _ => none
  | .classify _ => none
  | .enc _ => none
  | .decEnd _ => none
  | .decClear _ => none

/-- The state after a run of `n` steps, when each of them gives a next state. -/
def stepsTo : Nat → State → State → Prop
  | 0, s, t => s = t
  | n + 1, s, t => ∃ m, step s = .next m ∧ stepsTo n m t

end Sys2Proof.Machine
end

