-- ==== Sys2Proof/Certificates/Slice0/Obligations.lean ====
section
/-! DEFINITION. The statements for the provers. Where a docstring says "the spec's own decision", the clause rests
on a decision of spec/92_eei_decisions.md or a derivation the spec marks, not on the source document. -/

open Sys2Proof Sys2Proof.Machine

/-! ### The length-class LUT and CLASSIFY -/

/-- R90: the four rows of the class table, by magnitude. -/
def Obligations.LclFollowsClassTable : Prop :=
  ∀ v : Value,
    (v.toNat < 0x80 → lcl v = ⟨1, 7, 1, 0⟩) ∧
    (0x80 ≤ v.toNat ∧ v.toNat < 0x800 → lcl v = ⟨2, 11, 2, 3⟩) ∧
    (0x800 ≤ v.toNat ∧ v.toNat < 0x10000 → lcl v = ⟨3, 16, 3, 5⟩) ∧
    (0x10000 ≤ v.toNat → lcl v = ⟨4, 21, 3, 0⟩)

/-- R91 items 3, 4 and 6: padding completes D to g groups, g never exceeds the class and is below it only in class
4, and a value fits in D bits exactly when it is below 2^21. -/
def Obligations.LclRowsFitTheirGroups : Prop :=
  ∀ v : Value,
    7 * (lcl v).byteCount = (lcl v).dataBits + (lcl v).padding ∧
    (lcl v).byteCount ≤ (lcl v).lengthClass ∧
    ((lcl v).byteCount < (lcl v).lengthClass ↔ (lcl v).lengthClass = 4) ∧
    (v.toNat < 2 ^ (lcl v).dataBits ↔ v.toNat < 0x200000)

/-- R92: CLASSIFY answers the row of the operand's class and nothing else, for every operand; the whole state but
the response is as before. The response format is the spec's own decision D2. -/
def Obligations.ClassifyAnswersClassRow : Prop :=
  ∀ (v : Value) (s : State),
    (v.toNat < 0x80 →
      exec (.classify v) s = .next { s with rsp := some (.encoder ⟨1, 7, 1, 0, 0, 0, 0, 0, 0⟩) }) ∧
    (0x80 ≤ v.toNat ∧ v.toNat < 0x800 →
      exec (.classify v) s = .next { s with rsp := some (.encoder ⟨2, 11, 2, 3, 0, 0, 0, 0, 0⟩) }) ∧
    (0x800 ≤ v.toNat ∧ v.toNat < 0x10000 →
      exec (.classify v) s = .next { s with rsp := some (.encoder ⟨3, 16, 3, 5, 0, 0, 0, 0, 0⟩) }) ∧
    (0x10000 ≤ v.toNat →
      exec (.classify v) s = .next { s with rsp := some (.encoder ⟨4, 21, 3, 0, 0, 0, 0, 0, 0⟩) })

/-! ### The datapath -/

/-- R100: the groups of a value, written out; the value is read as zero-extended. -/
def Obligations.ExtractTakesGroupSlices : Prop :=
  ∀ v : Value,
    (v.toNat < 2 ^ 7 → extract v 1 0 = v.extractLsb' 0 7) ∧
    (v.toNat < 2 ^ 14 → extract v 2 0 = v.extractLsb' 7 7 ∧ extract v 2 1 = v.extractLsb' 0 7) ∧
    (v.toNat < 2 ^ 21 →
      extract v 3 0 = v.extractLsb' 14 7 ∧ extract v 3 1 = v.extractLsb' 7 7 ∧
      extract v 3 2 = v.extractLsb' 0 7)

/-- R104: the legal scalar values. -/
def Obligations.IsScalarIsTheLegalSet : Prop :=
  ∀ x : Nat, isScalar x = true ↔ x ≤ 0x10FFFF ∧ ¬(0xD800 ≤ x ∧ x ≤ 0xDFFF)

/-- R103: the 21-bit accumulator with its sticky bit agrees with the document's formula over unbounded integers,
for any number of groups. A derivation of the spec; the width is its own decision D8. -/
def Obligations.PackAgreesWithUnboundedValue : Prop :=
  ∀ gs : List Group,
    (gs.foldl (fun p g => pack p.1 p.2 g) ((0, false) : Acc × Bool)).1.toNat =
        naturalValue 0 gs % 2 ^ 21 ∧
    ((gs.foldl (fun p g => pack p.1 p.2 g) ((0, false) : Acc × Bool)).2 = true ↔
        2 ^ 21 ≤ naturalValue 0 gs)

/-- R107: packing the extracted groups gives the value back. A derivation of the spec. -/
def Obligations.PackInvertsExtract : Prop :=
  ∀ (v : Value) (g : Nat), 1 ≤ g → g ≤ 3 → v.toNat < 2 ^ (7 * g) →
    ((List.range g).map (extract v g)).foldl (fun p h => pack p.1 p.2 h) ((0, false) : Acc × Bool) =
      (v.setWidth 21, false)

/-! ### ENC and its output forms -/

/-- R113: ENC of a class-1 value emits the one byte that equals it; everything but the response is as before. -/
def Obligations.EncClassOneEmitsRun1 : Prop :=
  ∀ (v : Value) (s : State), v.toNat < 0x80 →
    ∃ r : EncResponse, exec (.enc v) s = .next { s with rsp := some (.encoder r) } ∧
      r.bytes = [0#1 ++ v.extractLsb' 0 7] ∧ r.encErr = 0 ∧
      (0#1 ++ v.extractLsb' 0 7).toNat = v.toNat

/-- R114: ENC of a class-2 value emits RUN2, whose first byte is in 0x81 to 0x8F. -/
def Obligations.EncClassTwoEmitsRun2 : Prop :=
  ∀ (v : Value) (s : State), 0x80 ≤ v.toNat → v.toNat < 0x800 →
    ∃ r : EncResponse, exec (.enc v) s = .next { s with rsp := some (.encoder r) } ∧
      r.bytes = [1#1 ++ 0b000#3 ++ v.extractLsb' 7 4, 0#1 ++ v.extractLsb' 0 7] ∧ r.encErr = 0 ∧
      0x81 ≤ r.encB0.toNat ∧ r.encB0.toNat ≤ 0x8F

/-- R115: ENC of a class-3 value, surrogates among them, emits RUN3, whose first byte is in 0x80 to 0x83. -/
def Obligations.EncClassThreeEmitsRun3 : Prop :=
  ∀ (v : Value) (s : State), 0x800 ≤ v.toNat → v.toNat < 0x10000 →
    ∃ r : EncResponse, exec (.enc v) s = .next { s with rsp := some (.encoder r) } ∧
      r.bytes = [1#1 ++ 0b00000#5 ++ v.extractLsb' 14 2, 1#1 ++ v.extractLsb' 7 7,
        0#1 ++ v.extractLsb' 0 7] ∧ r.encErr = 0 ∧
      0x80 ≤ r.encB0.toNat ∧ r.encB0.toNat ≤ 0x83

/-- R116: ENC of a value from 0x10000 to 2^21 - 1 emits RUN4; for a legal scalar value its first byte is in 0x84 to
0xC3. -/
def Obligations.EncClassFourEmitsRun4 : Prop :=
  ∀ (v : Value) (s : State), 0x10000 ≤ v.toNat → v.toNat < 0x200000 →
    ∃ r : EncResponse, exec (.enc v) s = .next { s with rsp := some (.encoder r) } ∧
      r.bytes = [1#1 ++ v.extractLsb' 14 7, 1#1 ++ v.extractLsb' 7 7, 0#1 ++ v.extractLsb' 0 7] ∧
      r.encErr = 0 ∧
      (isScalar v.toNat = true → 0x84 ≤ r.encB0.toNat ∧ r.encB0.toNat ≤ 0xC3)

/-- R72 and R110: the fields of ENC's answer below 2^21: the LCL's row, the run's length, its bytes in the lanes in
order, and lanes at index `enc_len` and above 0. The lanes are the spec's own decisions D2 and D7. -/
def Obligations.EncAnswerFillsLanesInOrder : Prop :=
  ∀ (v : Value) (s : State), v.toNat < 0x200000 →
    ∃ r : EncResponse, exec (.enc v) s = .next { s with rsp := some (.encoder r) } ∧
      r.lcClass.toNat = (lcl v).lengthClass ∧ r.lcD.toNat = (lcl v).dataBits ∧
      r.lcG.toNat = (lcl v).byteCount ∧ r.lcPad.toNat = (lcl v).padding ∧
      r.encLen.toNat = (lcl v).byteCount ∧ r.bytes = encRun v ∧ r.bytes.length = r.encLen.toNat ∧
      (r.encLen.toNat ≤ 1 → r.encB1 = 0) ∧ (r.encLen.toNat ≤ 2 → r.encB2 = 0) ∧ r.encErr = 0

/-- R118: ENC raises `OutOfRange` exactly from 2^21 up; it then emits nothing, and its class fields report class 4.
The threshold and the response are the spec's own decisions D4 and D6. -/
def Obligations.EncOutOfRangeExactlyFromCapacity : Prop :=
  ∀ (v : Value) (s : State),
    (0x200000 ≤ v.toNat →
      exec (.enc v) s = .next { s with rsp := some (.encoder ⟨4, 21, 3, 0, 0, 0, 0, 0, 1⟩) }) ∧
    (v.toNat < 0x200000 →
      ∃ r : EncResponse, exec (.enc v) s = .next { s with rsp := some (.encoder r) } ∧ r.encErr = 0)

/-- R117: a value below 2^21 that is no legal scalar value is encoded all the same, and the decoder rejects its run
at the terminal byte. The spec's own decision D5. -/
def Obligations.EncOfNonScalarIsRejectedOnDecode : Prop :=
  ∀ (v : Value) (s : State), v.toNat < 0x200000 → isScalar v.toNat = false →
    (∃ r : EncResponse, exec (.enc v) s = .next { s with rsp := some (.encoder r) } ∧
      r.encErr = 0 ∧ r.bytes = encRun v) ∧
    decodeStream (encRun v) = .err .invalidScalarValue 2

/-- R111: the run of a value below 2^21 is one run of g bytes, and its value is the operand. A derivation of the
spec. -/
def Obligations.EncRunIsOneRunOfItsValue : Prop :=
  ∀ v : Value, v.toNat < 0x200000 →
    ∃ (gs : List Group) (g : Group), encRun v = runOf gs g ∧
      gs.length + 1 = (lcl v).byteCount ∧ naturalValue 0 (gs ++ [g]) = v.toNat

/-- R63 to R66 and R113 to R116: a well-formed RUN1, RUN2, RUN3 or RUN4 emits exactly the bytes of its own word,
without error, and leaves all but the response as before. That a RUN row stands for the encoder's operation is the
model's reading (assumption log 5). -/
def Obligations.RunRowsEmitTheirOwnBytes : Prop :=
  ∀ (i : Instr) (bytes : List Byte) (s : State), i.wellFormed = true → encode i = .run bytes →
    ∃ r : EncResponse, exec i s = .next { s with rsp := some (.encoder r) } ∧
      r.bytes = bytes ∧ r.encErr = 0

/-- R110 and R113 to R116: every RUN row does what ENC does on the value its fields spell, whatever the fields. For
fields outside the row's class this is the model's choice (assumption log 5). -/
def Obligations.RunRowsAgreeWithEnc : Prop :=
  ∀ s : State,
    (∀ a : BitVec 7, exec (.run1 a) s = exec (.enc (a.setWidth 32)) s) ∧
    (∀ (a : BitVec 4) (b : BitVec 7), exec (.run2 a b) s = exec (.enc ((a ++ b).setWidth 32)) s) ∧
    (∀ (a : BitVec 2) (b c : BitVec 7),
      exec (.run3 a b c) s = exec (.enc ((a ++ b ++ c).setWidth 32)) s) ∧
    (∀ a b c : BitVec 7, exec (.run4 a b c) s = exec (.enc ((a ++ b ++ c).setWidth 32)) s)

/-- R20, R24 and R49: an encoder operation always completes, reads no state, and writes nothing but its response.
The spec's own decisions D1 and D2. -/
def Obligations.EncoderOpsReadAndWriteNoState : Prop :=
  ∀ i : Instr, isEncoderOp i = true →
    ∃ r : EncResponse, ∀ s : State, exec i s = .next { s with rsp := some (.encoder r) }

/-! ### The decoder's operations -/

/-- R131, R132 and R102: outside ERR, DEC_BYTE of a byte with bit 7 set and KIM.CONT of its group shift the group in,
note a bit lost, open the run, count the byte and emit nothing. Flags and counters the document does not name are
the spec's own decisions D8, D9 and D13. -/
def Obligations.ContinuationByteShiftsGroupIn : Prop :=
  ∀ (b : Byte) (s : State), s.bgd.err = 0 → b.getLsbD 7 = true →
    let t : State :=
      { s with
        bgd :=
          { acc := s.bgd.acc.extractLsb' 0 14 ++ b.extractLsb' 0 7
            ovf := s.bgd.ovf || s.bgd.acc.extractLsb' 14 7 != 0
            runOpen := true
            off := s.bgd.off + 1
            err := 0
            errOff := s.bgd.errOff }
        rsp := some (.decoder ⟨false, 0, false, 0⟩) }
    exec (.decByte b) s = .next t ∧ exec (.kimCont (b.extractLsb' 0 7)) s = .next t

/-- R131 and R133: outside ERR, a terminal byte that completes a legal scalar value emits it, clears the run and
counts the byte, through DEC_BYTE and KIM.TERM alike. -/
def Obligations.TerminalByteEmitsLegalScalar : Prop :=
  ∀ (b : Byte) (s : State), s.bgd.err = 0 → b.getLsbD 7 = false → s.bgd.ovf = false →
    s.bgd.acc.extractLsb' 14 7 = 0 →
    (s.bgd.acc.extractLsb' 0 14 ++ b.extractLsb' 0 7).toNat ≤ 0x10FFFF →
    ¬(0xD800 ≤ (s.bgd.acc.extractLsb' 0 14 ++ b.extractLsb' 0 7).toNat ∧
      (s.bgd.acc.extractLsb' 0 14 ++ b.extractLsb' 0 7).toNat ≤ 0xDFFF) →
    let t : State :=
      { s with
        bgd :=
          { acc := 0
            ovf := false
            runOpen := false
            off := s.bgd.off + 1
            err := 0
            errOff := s.bgd.errOff }
        rsp := some (.decoder ⟨true, s.bgd.acc.extractLsb' 0 14 ++ b.extractLsb' 0 7, false, 0⟩) }
    exec (.decByte b) s = .next t ∧ exec (.kimTerm (b.extractLsb' 0 7)) s = .next t

/-- R133 and R186: outside ERR, a terminal byte that completes no legal scalar value raises `InvalidScalarValue`:
`err` and `err_off` are written and nothing else. What a failing operation writes is the spec's own decision D12. -/
def Obligations.TerminalByteRaisesInvalidScalarValue : Prop :=
  ∀ (b : Byte) (s : State), s.bgd.err = 0 → b.getLsbD 7 = false →
    (s.bgd.ovf = true ∨ s.bgd.acc.extractLsb' 14 7 ≠ 0 ∨
      0x10FFFF < (s.bgd.acc.extractLsb' 0 14 ++ b.extractLsb' 0 7).toNat ∨
      0xD800 ≤ (s.bgd.acc.extractLsb' 0 14 ++ b.extractLsb' 0 7).toNat ∧
        (s.bgd.acc.extractLsb' 0 14 ++ b.extractLsb' 0 7).toNat ≤ 0xDFFF) →
    let t : State :=
      { s with
        bgd := { s.bgd with err := 3, errOff := s.bgd.off }
        rsp := some (.decoder ⟨false, 0, false, 3⟩) }
    exec (.decByte b) s = .next t ∧ exec (.kimTerm (b.extractLsb' 0 7)) s = .next t

/-- R134: DEC_END with no open run completes the stream and gives the initial state. The operation is the spec's own
decision D14. -/
def Obligations.DecEndCompletesStream : Prop :=
  ∀ (x : Byte) (s : State), s.bgd.err = 0 → s.bgd.runOpen = false →
    exec (.decEnd x) s =
      .next { s with bgd := ⟨0, false, false, 0, 0, 0⟩, rsp := some (.decoder ⟨false, 0, true, 0⟩) }

/-- R134, R182 and R186: DEC_END with a run open raises `Truncated`, with the stream's length as its offset, and
writes nothing else. The spec's own decisions D12 and D14. -/
def Obligations.DecEndRaisesTruncated : Prop :=
  ∀ (x : Byte) (s : State), s.bgd.err = 0 → s.bgd.runOpen = true →
    exec (.decEnd x) s =
      .next { s with
        bgd := { s.bgd with err := 2, errOff := s.bgd.off }
        rsp := some (.decoder ⟨false, 0, false, 2⟩) }

/-- R135: DEC_CLEAR gives the initial state from every state. The spec's own decision D15. -/
def Obligations.DecClearGivesInitialState : Prop :=
  ∀ (x : Byte) (s : State),
    exec (.decClear x) s =
      .next { s with bgd := ⟨0, false, false, 0, 0, 0⟩, rsp := some (.decoder ⟨false, 0, false, 0⟩) }

/-- R188: in ERR, DEC_BYTE, KIM.CONT, KIM.TERM and DEC_END change no register and answer with the error held. The
spec's own decision D11. -/
def Obligations.ErrIgnoresDecoderOps : Prop :=
  ∀ (i : Instr) (s : State), s.bgd.err ≠ 0 → (byteOf i).isSome = true ∨ (∃ x, i = .decEnd x) →
    exec i s = .next { s with rsp := some (.decoder ⟨false, 0, false, s.bgd.err⟩) }

/-- R180, R186 and R187: which operation raises which error, and what it writes when it does. The codes and the
registers are the spec's own decisions D10 and D12. -/
def Obligations.RaisingOpsWriteErrAndOffsetOnly : Prop :=
  ∀ (i : Instr) (s t : State), exec i s = .next t → s.bgd.err = 0 → t.bgd.err ≠ 0 →
    t.bgd = { s.bgd with err := t.bgd.err, errOff := s.bgd.off } ∧
    t.rsp = some (.decoder ⟨false, 0, false, t.bgd.err⟩) ∧ t.inbox = s.inbox ∧
    ((t.bgd.err = 2 ∧ s.bgd.runOpen = true ∧ ∃ x, i = .decEnd x) ∨
      (t.bgd.err = 3 ∧ ∃ b, byteOf i = some b ∧ b.getLsbD 7 = false))

/-- R32: the decoder's transitions between IDLE, RUN and ERR, over every operation. A derivation of the spec. -/
def Obligations.ConditionTransitions : Prop :=
  ∀ (i : Instr) (s t : State), exec i s = .next t →
    (isEncoderOp i = true → t.bgd.condition = s.bgd.condition) ∧
    (∀ b, byteOf i = some b → s.bgd.condition ≠ .err → b.getLsbD 7 = true → t.bgd.condition = .run) ∧
    (∀ b, byteOf i = some b → s.bgd.condition ≠ .err → b.getLsbD 7 = false →
      (t.bgd.condition = .idle ∧ ∃ v, t.rsp = some (.decoder ⟨true, v, false, 0⟩)) ∨
      (t.bgd.condition = .err ∧ t.rsp = some (.decoder ⟨false, 0, false, 3⟩))) ∧
    (∀ x, i = .decEnd x → s.bgd.condition = .idle → t.bgd.condition = .idle) ∧
    (∀ x, i = .decEnd x → s.bgd.condition = .run → t.bgd.condition = .err) ∧
    (∀ x, i = .decClear x → t.bgd.condition = .idle) ∧
    ((byteOf i).isSome = true ∨ (∃ x, i = .decEnd x) → s.bgd.condition = .err →
      t.bgd.condition = .err)

/-- R27: `off` counts exactly the bytes consumed without error, and starts again with the initial state. The counter
is the spec's own decision D13. -/
def Obligations.OffCountsConsumedBytes : Prop :=
  ∀ (i : Instr) (s t : State), exec i s = .next t →
    (∀ b, byteOf i = some b →
      t.bgd.off = if s.bgd.err = 0 ∧ t.bgd.err = 0 then s.bgd.off + 1 else s.bgd.off) ∧
    (isEncoderOp i = true → t.bgd.off = s.bgd.off) ∧
    (∀ x, i = .decEnd x → t.bgd.off = if t.bgd.err = 0 then 0 else s.bgd.off) ∧
    (∀ x, i = .decClear x → t.bgd.off = 0)

/-- R20 and R53: what an operation answers and leaves in the decoder depends on the decoder's six registers alone. -/
def Obligations.ResultsDependOnRegistersOnly : Prop :=
  ∀ (i : Instr) (s s' t t' : State), s.bgd = s'.bgd → exec i s = .next t → exec i s' = .next t' →
    t.bgd = t'.bgd ∧ t.rsp = t'.rsp

/-- R12 and R53: an encoder operation and a decoder operation may be taken in either order: the responses and the
state left are the same. -/
def Obligations.UnitsStepInAnyOrder : Prop :=
  ∀ (e d : Instr) (s s₁ s₂ : State), isEncoderOp e = true → isEncoderOp d = false →
    exec e s = .next s₁ → exec d s₁ = .next s₂ →
    ∃ u₁ u₂ : State, exec d s = .next u₁ ∧ exec e u₁ = .next u₂ ∧
      u₂.bgd = s₂.bgd ∧ u₂.inbox = s₂.inbox ∧ u₁.rsp = s₂.rsp ∧ u₂.rsp = s₁.rsp

/-! ### The step, reset and the invariants -/

/-- R11: when the request before the block decodes, the step is `exec` of the instruction, at the state whose inbox
has moved on. The inbox is the model's own (assumption log 1). -/
def Obligations.StepRunsTheDecodedInstruction : Prop :=
  ∀ (r : Request) (rest : List HostEvent) (i : Instr) (s : State),
    s.inbox = .request r :: rest → decode r = .ok i → step s = exec i { s with inbox := rest }

/-- A word of the opcode table put before the block is run by the very next step (assumption log 7 and 13). -/
def Obligations.FetchedWordRunsNext : Prop :=
  ∀ (nbits w : Nat) (i : Instr) (s : State), decodeTableWord nbits w = some i →
    step (s.withFetchWord nbits w) = exec i s

/-- R73: the reserved decoder code changes no register and repeats `err`. The spec's own decision D16. -/
def Obligations.ReservedCodeIsIgnored : Prop :=
  ∀ (b : Byte) (rest : List HostEvent) (s : State), s.inbox = .request (.decoder 0b11 b) :: rest →
    step s = .next { s with inbox := rest, rsp := some (.decoder ⟨false, 0, false, s.bgd.err⟩) }

/-- R210 and R211: the RESET input leaves every register 0. The input and five of the values are the spec's own
decisions D15 and D17; that it is one event is the model's (assumption log 3). -/
def Obligations.ResetInputClearsRegisters : Prop :=
  ∀ (rest : List HostEvent) (s : State), s.inbox = .reset :: rest →
    step s = .next ⟨⟨0, false, false, 0, 0, 0⟩, rest, none⟩

/-- R195 and R30: with nothing presented the block holds its six registers. -/
def Obligations.IdleStepHoldsRegisters : Prop :=
  ∀ s : State, s.inbox = [] → step s = .next { s with rsp := none }

/-- R143 and R180: every KIM byte, every encoder request and every decoder request, the reserved code among them,
is answered by a next state in every state; the inbox moves on by one event. -/
def Obligations.EveryRequestIsAnswered : Prop :=
  ∀ (s : State) (r : Request) (rest : List HostEvent), s.inbox = .request r :: rest →
    (∀ bytes, r ≠ .run bytes) →
    ∃ t : State, step s = .next t ∧ t.inbox = rest ∧ t.rsp.isSome = true

/-- The one refusal of the model: bytes on its run port that are no form of R63 to R66 (assumption log 6). -/
def Obligations.OnlyMalformedRunWordsAreRefused : Prop :=
  ∀ (s : State) (why : Refusal), step s = .refused why ↔
    why = .notARunForm ∧
      ∃ (bytes : List Byte) (rest : List HostEvent), s.inbox = .request (.run bytes) :: rest ∧
        decode (.run bytes) = .error .notARunForm

/-- R189 and R32: a step out of ERR keeps every register, unless it served DEC_CLEAR or RESET, which give the
initial state. The spec's own decisions D11 and D15. -/
def Obligations.OnlyClearOrResetLeavesErr : Prop :=
  ∀ s t : State, step s = .next t → s.bgd.err ≠ 0 →
    t.bgd = s.bgd ∨
      (t.bgd = ⟨0, false, false, 0, 0, 0⟩ ∧
        (s.inbox.head? = some .reset ∨
          ∃ x, s.inbox.head? = some (.request (.decoder 0b10 x))))

/-- R188 and R215: once in ERR, the registers stay frozen over any number of steps in which neither DEC_CLEAR nor
RESET is presented. The spec's own decision D11. -/
def Obligations.ErrIsFrozenUntilCleared : Prop :=
  ∀ (n : Nat) (s t : State), stepsTo n s t → s.bgd.err ≠ 0 →
    (∀ e ∈ s.inbox, e ≠ .reset ∧ ∀ x, e ≠ .request (.decoder 0b10 x)) → t.bgd = s.bgd

/-- R33: the six registers after reset. -/
def Obligations.ResetRegistersAreZero : Prop :=
  State.reset.bgd = ⟨0, false, false, 0, 0, 0⟩

/-- R31 holds at reset. -/
def Obligations.ResetMeetsInvariants : Prop :=
  State.reset.bgd.Inv

/-- R31: every step keeps the five invariants, from every state that meets them. -/
def Obligations.StepKeepsInvariants : Prop :=
  ∀ s t : State, s.bgd.Inv → step s = .next t → t.bgd.Inv

/-- R31: in every state reached from reset by any sequence of events the host presents, the invariants hold. -/
def Obligations.InvariantsHoldAfterAnyOperations : Prop :=
  ∀ (events : List HostEvent) (n : Nat) (t : State),
    stepsTo n { State.reset with inbox := events } t → t.bgd.Inv

/-! ### Whole streams -/

/-- R160: `EncodeStream` is the concatenation of the runs when every value fits, and `OutOfRange` with the index of
the first value that does not; for a text it always succeeds. It is what the host obtains by issuing ENC for each
value and appending the answers' bytes in order, from any state, the decoder's registers untouched. Where `OutOfRange` begins
and the index it reports are the spec's own decisions D4 and D24. -/
def Obligations.HostObtainsEncodeStream : Prop :=
  (∀ vs : List Value, (∀ v ∈ vs, v.toNat < 0x200000) → encodeStream vs = .ok (vs.map encRun).flatten) ∧
  (∀ (fits : List Value) (v : Value) (rest : List Value), (∀ u ∈ fits, u.toNat < 0x200000) →
    0x200000 ≤ v.toNat → encodeStream (fits ++ v :: rest) = .err .outOfRange fits.length) ∧
  (∀ vs : List Value, legalText vs = true → ∃ bs, encodeStream vs = .ok bs) ∧
  (∀ (vs : List Value) (s : State),
    readEncode 0 [] (issue (encStreamOps vs) s).2 = encodeStream vs ∧
    (issue (encStreamOps vs) s).1.bgd = s.bgd)

/-- R162: issuing DEC_BYTE for each byte and then DEC_END, and reading the answers up to the first error, gives
`DecodeStream`; on success the decoder is back in the initial state, on error it is in ERR. The end operation, the
sticky error and the offset are the spec's own decisions D11, D13 and D14; the host's reader is the model's (assumption
log 22). -/
def Obligations.HostObtainsDecodeStream : Prop :=
  ∀ (bs : List Byte) (s : State), s.bgd = Bgd.initial →
    readDecode (issue (decStreamOps bs) s).1.bgd.errOff [] (issue (decStreamOps bs) s).2 =
        decodeStream bs ∧
    (∀ out, decodeStream bs = .ok out → (issue (decStreamOps bs) s).1.bgd = Bgd.initial) ∧
    (∀ kind pos, decodeStream bs = .err kind pos →
      (issue (decStreamOps bs) s).1.bgd.condition = .err ∧
        (issue (decStreamOps bs) s).1.bgd.errOff = pos)

/-- R168: every text comes back from its bytes; values that fit but are no text are encoded all the same, and the
decoder answers `InvalidScalarValue`. A derivation of the spec. -/
def Obligations.DecodeInvertsEncodeOnTexts : Prop :=
  (∀ vs : List Value, legalText vs = true →
    ∃ (bs : List Byte) (out : List Acc), encodeStream vs = .ok bs ∧ decodeStream bs = .ok out ∧
      out.map BitVec.toNat = vs.map BitVec.toNat) ∧
  (∀ vs : List Value, (∀ v ∈ vs, v.toNat < 0x200000) → legalText vs = false →
    ∃ (bs : List Byte) (k : Nat), encodeStream vs = .ok bs ∧
      decodeStream bs = .err .invalidScalarValue k)

/-- R103, R105 and R133 over a whole run of any length: one run is decoded to its value read over unbounded
integers when that is a legal scalar value, and else fails at its last byte. -/
def Obligations.RunIsJudgedByItsUnboundedValue : Prop :=
  ∀ (gs : List Group) (g : Group),
    (isScalar (naturalValue 0 (gs ++ [g])) = true →
      decodeStream (runOf gs g) = .ok [BitVec.ofNat 21 (naturalValue 0 (gs ++ [g]))]) ∧
    (isScalar (naturalValue 0 (gs ++ [g])) = false →
      decodeStream (runOf gs g) = .err .invalidScalarValue gs.length)

/-- R169, encoder side: the bytes of a text are the concatenation of the bytes of its parts. -/
def Obligations.EncodeStreamConcatenates : Prop :=
  ∀ (a b : List Value) (x y : List Byte), encodeStream a = .ok x → encodeStream b = .ok y →
    encodeStream (a ++ b) = .ok (x ++ y)

/-- R169, decoder side: after a stream that decodes, a second stream decodes as it does alone, its error offsets
counted on. A derivation of the spec. -/
def Obligations.DecodeStreamConcatenates : Prop :=
  ∀ (x y : List Byte) (p : List Acc), decodeStream x = .ok p →
    (∀ q, decodeStream y = .ok q → decodeStream (x ++ y) = .ok (p ++ q)) ∧
    (∀ kind j, decodeStream y = .err kind j → decodeStream (x ++ y) = .err kind (x.length + j))

/-- R164: the first error in byte order is the stream's; what follows an invalid run does not matter. -/
def Obligations.FirstInvalidRunDecidesTheStream : Prop :=
  ∀ (x y : List Byte) (k : Nat), decodeStream x = .err .invalidScalarValue k →
    k < x.length ∧ decodeStream (x ++ y) = .err .invalidScalarValue k

/-- R164 and R174: a stream whose last byte has its flag set is `Truncated` at its length, unless an invalid run
came first; no other stream is `Truncated`; no stream is `OutOfRange`. -/
def Obligations.TruncatedExactlyOnOpenEnd : Prop :=
  ∀ bs : List Byte,
    (wellFormedBytes bs = false →
      decodeStream bs = .err .truncated bs.length ∨
        ∃ k, k < bs.length ∧ decodeStream bs = .err .invalidScalarValue k) ∧
    (∀ n, decodeStream bs = .err .truncated n → n = bs.length ∧ wellFormedBytes bs = false) ∧
    (∀ n, decodeStream bs ≠ .err .outOfRange n)

/-- R171: the encoder is injective on sequences of values below 2^21; the decoder is not injective. -/
def Obligations.EncodeStreamIsInjective : Prop :=
  (∀ (a b : List Value) (x : List Byte), encodeStream a = .ok x → encodeStream b = .ok x → a = b) ∧
  decodeStream [0x41] = decodeStream [0x80, 0x41]

/-- R170 and R172: a text's KIM length is the sum of g over its values, and falls short of the sum of the classes
(its UTF-8 length) by one for each class-4 value. -/
def Obligations.EncodedLengthIsSumOfByteCounts : Prop :=
  ∀ (vs : List Value) (bs : List Byte), encodeStream vs = .ok bs →
    bs.length = (vs.map fun v => (lcl v).byteCount).sum ∧
    bs.length + vs.countP (fun v => (lcl v).lengthClass = 4) = (vs.map fun v => (lcl v).lengthClass).sum

/-- R173: every result of `EncodeStream` is a well-formed sequence that splits into runs, and any byte sequence splits
into runs in at most one way. A derivation of the spec. -/
def Obligations.EncodedStreamSplitsIntoRunsOneWay : Prop :=
  (∀ (vs : List Value) (bs : List Byte), encodeStream vs = .ok bs →
    wellFormedBytes bs = true ∧
      ∃ runs : List (List Group × Group), runs.length = vs.length ∧
        bs = runs.flatMap fun r => runOf r.1 r.2) ∧
  (∀ p q : List (List Group × Group),
    (p.flatMap fun r => runOf r.1 r.2) = (q.flatMap fun r => runOf r.1 r.2) → p = q)

/-! ### Encodings -/

/-- Decode and encode agree on the words of the opcode table: every well-formed instruction of a row but RUN1 is read
back from its own word; the word of RUN1 is the word of KIM.TERM and is read as that (R61, R63; assumption
log 6). -/
def Obligations.TableWordsDecodeBack : Prop :=
  (∀ i : Instr, i.wellFormed = true → (∀ a, i ≠ .run1 a) →
    decodeTableWord (tableWord i).1 (tableWord i).2 = some i) ∧
  (∀ a : BitVec 7,
    decodeTableWord (tableWord (.run1 a)).1 (tableWord (.run1 a)).2 = some (.kimTerm a))

/-- No bit of a request is dropped: what decodes encodes back to the very request, ill-formed fields included. -/
def Obligations.DecodedRequestsEncodeBack : Prop :=
  ∀ (r : Request) (i : Instr), decode r = .ok i → encode i = r

/-- R61: every byte value is one of the two forms, told by bit 7. -/
def Obligations.EveryByteIsOneOfTwoForms : Prop :=
  ∀ b : Byte,
    (0x80 ≤ b.toNat → decode (.kimByte b) = .ok (.kimCont (b.extractLsb' 0 7))) ∧
    (b.toNat < 0x80 → decode (.kimByte b) = .ok (.kimTerm (b.extractLsb' 0 7)))

/-- R75 and R111: the runs the encoder writes for values below 2^21 are exactly the words of well-formed RUN rows. -/
def Obligations.CanonicalRunsAreTheWellFormedRunWords : Prop :=
  ∀ bytes : List Byte,
    (∃ v : Value, v.toNat < 0x200000 ∧ encRun v = bytes) ↔
      ∃ i : Instr, decode (.run bytes) = .ok i ∧ i.wellFormed = true

/-- R60 to R71: words written out from the spec's encodings decode to the operations they stand for. -/
def Obligations.WrittenWordsDecodeRight : Prop :=
  decode (.kimByte 0b10000100) = .ok (.kimCont 0b0000100) ∧
  decode (.kimByte 0b01011111) = .ok (.kimTerm 0b1011111) ∧
  decode (.run [0b10000001, 0b01011111]) = .ok (.run2 0b0001 0b1011111) ∧
  decode (.run [0b10000000, 0b11001100, 0b00000011]) = .ok (.run3 0b00 0b1001100 0b0000011) ∧
  decode (.encoder 1 0x2603) = .ok (.enc 0x2603) ∧
  decode (.decoder 0b00 0x84) = .ok (.decByte 0x84) ∧
  decode (.decoder 0b01 0x00) = .ok (.decEnd 0x00)
end

