-- ==== Sys2Proof/Laws/Datapath.lean ====
section
/-! SUPPORT. What each datapath function does, as arithmetic on unsigned numbers. -/

namespace Sys2Proof.Machine

/-- The bits leaving the accumulator hold a 1 exactly when its value is 2^14 or more. -/
theorem topGroup_ne_zero (acc : Acc) : (acc.extractLsb' 14 7 != 0#7) = decide (2 ^ 14 ≤ acc.toNat) := by
  have h := acc.isLt
  rw [Bool.eq_iff_iff, bne_iff_ne, ne_eq, ← BitVec.toNat_inj, decide_eq_true_eq]
  simp only [BitVec.extractLsb'_toNat, Nat.shiftRight_eq_div_pow, BitVec.toNat_ofNat]
  omega

/-- Appending a group is multiplying by 128 and adding it. -/
theorem append_group_toNat {n : Nat} (x : BitVec n) (g : Group) :
    (x ++ g).toNat = x.toNat * 128 + g.toNat := by
  have := g.isLt
  rw [BitVec.toNat_append, ← Nat.shiftLeft_add_eq_or_of_lt (by omega), Nat.shiftLeft_eq]

/-- The accumulator after `Pack`, as a number. -/
theorem pack_acc_toNat (acc : Acc) (ovf : Bool) (g : Group) :
    (pack acc ovf g).1.toNat = acc.toNat % 2 ^ 14 * 128 + g.toNat := by
  simp only [pack]
  refine (append_group_toNat _ g).trans ?_
  simp [BitVec.extractLsb'_toNat]

/-- The sticky flag after `Pack`. -/
theorem pack_ovf (acc : Acc) (ovf : Bool) (g : Group) :
    (pack acc ovf g).2 = (ovf || decide (2 ^ 14 ≤ acc.toNat)) := by
  simp only [pack, overflowAfter, topGroup_ne_zero]

/-- The extracted group as a number, where `Extract` is defined. -/
theorem extract_toNat (v : Value) (g i : Nat) (h : v.toNat < 2 ^ (7 * g)) :
    (extract v g i).toNat = v.toNat / 2 ^ (7 * (g - 1 - i)) % 128 := by
  simp only [extract, BitVec.extractLsb'_toNat, BitVec.toNat_setWidth, Nat.shiftRight_eq_div_pow,
    Nat.mod_eq_of_lt h]

@[simp] theorem byteFlag_makeByte (f : Bool) (g : Group) : byteFlag (makeByte f g) = f := by
  revert f g; decide

@[simp] theorem byteGroup_makeByte (f : Bool) (g : Group) : byteGroup (makeByte f g) = g := by
  revert f g; decide

@[simp] theorem makeByte_flag_group (b : Byte) : makeByte (byteFlag b) (byteGroup b) = b := by
  revert b; decide

theorem isScalar_iff (x : Nat) : isScalar x = true ↔ x ≤ 0x10FFFF ∧ (x < 0xD800 ∨ 0xDFFF < x) := by
  simp only [isScalar, Config.largestScalar, Config.surrogateFirst, Config.surrogateLast, Bool.and_eq_true,
    Bool.not_eq_true', Bool.and_eq_false_iff, decide_eq_true_eq, decide_eq_false_iff_not, not_le]

theorem valid_iff (acc : Acc) (ovf : Bool) : valid acc ovf = true ↔ ovf = false ∧ isScalar acc.toNat = true := by
  cases ovf <;> simp [valid]

theorem naturalValue_append (a : Nat) (gs : List Group) (g : Group) :
    naturalValue a (gs ++ [g]) = naturalValue a gs * 128 + g.toNat := by
  simp [naturalValue]

/-- The four rows of the LCL, told apart. -/
theorem lcl_cases (v : Value) :
    (v.toNat < 0x80 ∧ lcl v = ⟨1, 7, 1, 0⟩) ∨
    (0x80 ≤ v.toNat ∧ v.toNat < 0x800 ∧ lcl v = ⟨2, 11, 2, 3⟩) ∨
    (0x800 ≤ v.toNat ∧ v.toNat < 0x10000 ∧ lcl v = ⟨3, 16, 3, 5⟩) ∨
    (0x10000 ≤ v.toNat ∧ lcl v = ⟨4, 21, 3, 0⟩) := by
  unfold lcl
  simp only [Config.classTwoFrom, Config.classThreeFrom, Config.classFourFrom]
  split_ifs <;> simp <;> omega

/-- The runs written out, by the number of groups of the value's class. -/
theorem encRun_of_byteCount_one (v : Value) (h : (lcl v).byteCount = 1) :
    encRun v = [makeByte false (extract v 1 0)] := by
  simp [encRun, h, List.range_succ]

theorem encRun_of_byteCount_two (v : Value) (h : (lcl v).byteCount = 2) :
    encRun v = [makeByte true (extract v 2 0), makeByte false (extract v 2 1)] := by
  simp [encRun, h, List.range_succ]

theorem encRun_of_byteCount_three (v : Value) (h : (lcl v).byteCount = 3) :
    encRun v =
      [makeByte true (extract v 3 0), makeByte true (extract v 3 1), makeByte false (extract v 3 2)] := by
  simp [encRun, h, List.range_succ]

end Sys2Proof.Machine
end

