-- ==== Sys2Proof/Laws/State.lean ====
section
/-! SUPPORT. One lemma per field per update of the state and of the decoder's registers, true by `rfl`, so that no
later proof unfolds a record update. -/

namespace Sys2Proof.Machine

@[simp] theorem State.idle_bgd (s : State) : s.idle.bgd = s.bgd := rfl
@[simp] theorem State.idle_inbox (s : State) : s.idle.inbox = s.inbox := rfl
@[simp] theorem State.idle_rsp (s : State) : s.idle.rsp = none := rfl

@[simp] theorem State.resetInput_bgd (s : State) : s.resetInput.bgd = Bgd.initial := rfl
@[simp] theorem State.resetInput_inbox (s : State) : s.resetInput.inbox = s.inbox := rfl
@[simp] theorem State.resetInput_rsp (s : State) : s.resetInput.rsp = none := rfl

@[simp] theorem State.withFetchWord_bgd (s : State) (n w : Nat) : (s.withFetchWord n w).bgd = s.bgd := rfl
@[simp] theorem State.withFetchWord_inbox (s : State) (n w : Nat) :
    (s.withFetchWord n w).inbox = .request (tableRequest n w) :: s.inbox := rfl
@[simp] theorem State.withFetchWord_rsp (s : State) (n w : Nat) : (s.withFetchWord n w).rsp = s.rsp := rfl

@[simp] theorem State.reset_bgd : State.reset.bgd = Bgd.initial := rfl
@[simp] theorem State.reset_inbox : State.reset.inbox = [] := rfl
@[simp] theorem State.reset_rsp : State.reset.rsp = none := rfl

@[simp] theorem Bgd.initial_acc : Bgd.initial.acc = 0 := rfl
@[simp] theorem Bgd.initial_ovf : Bgd.initial.ovf = false := rfl
@[simp] theorem Bgd.initial_runOpen : Bgd.initial.runOpen = false := rfl
@[simp] theorem Bgd.initial_off : Bgd.initial.off = 0 := rfl
@[simp] theorem Bgd.initial_err : Bgd.initial.err = 0 := rfl
@[simp] theorem Bgd.initial_errOff : Bgd.initial.errOff = 0 := rfl

@[simp] theorem Bgd.raiseError_acc (c : BitVec 2) (d : Bgd) : (d.raiseError c).1.acc = d.acc := rfl
@[simp] theorem Bgd.raiseError_ovf (c : BitVec 2) (d : Bgd) : (d.raiseError c).1.ovf = d.ovf := rfl
@[simp] theorem Bgd.raiseError_runOpen (c : BitVec 2) (d : Bgd) :
    (d.raiseError c).1.runOpen = d.runOpen := rfl
@[simp] theorem Bgd.raiseError_off (c : BitVec 2) (d : Bgd) : (d.raiseError c).1.off = d.off := rfl
@[simp] theorem Bgd.raiseError_err (c : BitVec 2) (d : Bgd) : (d.raiseError c).1.err = c := rfl
@[simp] theorem Bgd.raiseError_errOff (c : BitVec 2) (d : Bgd) : (d.raiseError c).1.errOff = d.off := rfl
@[simp] theorem Bgd.raiseError_response (c : BitVec 2) (d : Bgd) :
    (d.raiseError c).2 = DecResponse.silent c := rfl

@[simp] theorem Bgd.continueRun_acc (g : Group) (d : Bgd) :
    (d.continueRun g).1.acc = (pack d.acc d.ovf g).1 := rfl
@[simp] theorem Bgd.continueRun_ovf (g : Group) (d : Bgd) :
    (d.continueRun g).1.ovf = (pack d.acc d.ovf g).2 := rfl
@[simp] theorem Bgd.continueRun_runOpen (g : Group) (d : Bgd) : (d.continueRun g).1.runOpen = true := rfl
@[simp] theorem Bgd.continueRun_off (g : Group) (d : Bgd) : (d.continueRun g).1.off = d.off + 1 := rfl
@[simp] theorem Bgd.continueRun_err (g : Group) (d : Bgd) : (d.continueRun g).1.err = d.err := rfl
@[simp] theorem Bgd.continueRun_errOff (g : Group) (d : Bgd) :
    (d.continueRun g).1.errOff = d.errOff := rfl
@[simp] theorem Bgd.continueRun_response (g : Group) (d : Bgd) :
    (d.continueRun g).2 = DecResponse.silent 0 := rfl

@[simp] theorem DecResponse.silent_outValid (e : BitVec 2) : (DecResponse.silent e).outValid = false := rfl
@[simp] theorem DecResponse.silent_scalar (e : BitVec 2) : (DecResponse.silent e).scalar = 0 := rfl
@[simp] theorem DecResponse.silent_done (e : BitVec 2) : (DecResponse.silent e).done = false := rfl
@[simp] theorem DecResponse.silent_decErr (e : BitVec 2) : (DecResponse.silent e).decErr = e := rfl
@[simp] theorem DecResponse.emitScalar_outValid (v : Acc) : (DecResponse.emitScalar v).outValid = true := rfl
@[simp] theorem DecResponse.emitScalar_scalar (v : Acc) : (DecResponse.emitScalar v).scalar = v := rfl
@[simp] theorem DecResponse.emitScalar_done (v : Acc) : (DecResponse.emitScalar v).done = false := rfl
@[simp] theorem DecResponse.emitScalar_decErr (v : Acc) : (DecResponse.emitScalar v).decErr = 0 := rfl
@[simp] theorem DecResponse.complete_outValid : DecResponse.complete.outValid = false := rfl
@[simp] theorem DecResponse.complete_done : DecResponse.complete.done = true := rfl
@[simp] theorem DecResponse.complete_decErr : DecResponse.complete.decErr = 0 := rfl

end Sys2Proof.Machine
end

