-- ==== Sys2Proof/Laws/Ops.lean ====
section
/-! SUPPORT. For each shared operation, once, everything it can do; later proofs cite these and unfold nothing. -/

namespace Sys2Proof.Machine

/-- An encoder operation always gives a next state, in which only the response is new. -/
theorem State.encoderOp_next_iff (a : EncResponse) (s t : State) :
    s.encoderOp a = .next t ↔ t = { s with rsp := some (.encoder a) } := by
  simp only [State.encoderOp, Host.Outcome.next.injEq]; exact eq_comm

/-- A decoder operation always gives a next state, in which only registers and response are new. -/
theorem State.decoderOp_next_iff (op : Bgd → Bgd × DecResponse) (s t : State) :
    s.decoderOp op = .next t ↔
      t = { s with bgd := (op s.bgd).1, rsp := some (.decoder (op s.bgd).2) } := by
  simp only [State.decoderOp, Host.Outcome.next.injEq]; exact eq_comm

/-- Outside ERR the guarded operation acts. -/
theorem Bgd.unlessError_of_noError (op : Bgd → Bgd × DecResponse) (d : Bgd) (h : d.err = 0) :
    d.unlessError op = op d :=
  if_pos h

/-- In ERR it changes nothing and repeats the error. -/
theorem Bgd.unlessError_of_error (op : Bgd → Bgd × DecResponse) (d : Bgd) (h : d.err ≠ 0) :
    d.unlessError op = (d, DecResponse.silent d.err) :=
  if_neg h

/-- A terminal group ends the run with its value, or raises `InvalidScalarValue`. -/
theorem Bgd.endRun_cases (g : Group) (d : Bgd) :
    (valid (pack d.acc d.ovf g).1 (pack d.acc d.ovf g).2 = true ∧
      d.endRun g =
        ({ d with acc := 0, ovf := false, runOpen := false, off := d.off + 1 },
          DecResponse.emitScalar (pack d.acc d.ovf g).1)) ∨
    (valid (pack d.acc d.ovf g).1 (pack d.acc d.ovf g).2 = false ∧
      d.endRun g = d.raiseError Config.errInvalidScalarValue) := by
  unfold Bgd.endRun
  cases h : valid (pack d.acc d.ovf g).1 (pack d.acc d.ovf g).2 <;> simp

/-- The end of the stream: `Truncated` on an open run, else the initial state. -/
theorem Bgd.endStream_cases (d : Bgd) :
    (d.runOpen = true ∧ d.endStream = d.raiseError Config.errTruncated) ∨
    (d.runOpen = false ∧ d.endStream = (Bgd.initial, DecResponse.complete)) := by
  unfold Bgd.endStream
  cases h : d.runOpen <;> simp

/-- A byte is a continuation or a terminal one, by its flag. -/
theorem Bgd.consumeByte_of_flag (b : Byte) (d : Bgd) (h : byteFlag b = true) :
    d.consumeByte b = d.continueRun (byteGroup b) := by
  simp [Bgd.consumeByte, h]

theorem Bgd.consumeByte_of_noFlag (b : Byte) (d : Bgd) (h : byteFlag b = false) :
    d.consumeByte b = d.endRun (byteGroup b) := by
  simp [Bgd.consumeByte, h]

/-- The whole of what `takeEvent` does, by the inbox. -/
theorem takeEvent_of_nil (s : State) (h : s.inbox = []) : takeEvent s = .next s.idle := by
  simp [takeEvent, h]

theorem takeEvent_of_reset (s : State) (rest : List HostEvent) (h : s.inbox = .reset :: rest) :
    takeEvent s = .next { s with inbox := rest }.resetInput := by
  simp [takeEvent, h]

theorem takeEvent_of_request (s : State) (r : Request) (rest : List HostEvent)
    (h : s.inbox = .request r :: rest) : takeEvent s = serve r { s with inbox := rest } := by
  simp [takeEvent, h]

/-- The whole of what `serve` does, by what the request decodes to. -/
theorem serve_of_ok (r : Request) (i : Instr) (s : State) (h : decode r = .ok i) : serve r s = exec i s := by
  simp [serve, h]

theorem serve_of_reserved (r : Request) (s : State) (h : decode r = .error .reservedDecOp) :
    serve r s = s.reservedOp := by
  simp [serve, h]

theorem serve_of_notARunForm (r : Request) (s : State) (h : decode r = .error .notARunForm) :
    serve r s = .refused .notARunForm := by
  simp [serve, h]

end Sys2Proof.Machine
end

