-- ==== Sys2Proof/Laws/PerInstr.lean ====
section
/-! SUPPORT. Statements about every instruction as syntax, one lemma per constructor of `Instr`. -/

namespace Sys2Proof.Laws.DecodeEncode

/-- A well-formed instruction is read back from the request that stands for it. -/
def Statement (i : Instr) : Prop :=
  i.wellFormed = true → decode (encode i) = .ok i

theorem kimCont (g : Group) : Statement (.kimCont g) := by
  revert g; unfold Statement; decide

theorem kimTerm (g : Group) : Statement (.kimTerm g) := by
  revert g; unfold Statement; decide

theorem run1 (a : BitVec 7) : Statement (.run1 a) := by
  revert a; unfold Statement; decide

theorem terminal_group (g : Group) :
    Machine.byteFlag (0#1 ++ g) = false ∧ Machine.byteGroup (0#1 ++ g) = g := by
  revert g; decide

theorem continuation_group (g : Group) :
    Machine.byteFlag (1#1 ++ g) = true ∧ Machine.byteGroup (1#1 ++ g) = g := by
  revert g; decide

theorem run2_first (a : BitVec 4) :
    (0b1000#4 ++ a : BitVec (4 + 4)).extractLsb' 4 4 = 0b1000#4 ∧
      (0b1000#4 ++ a : BitVec (4 + 4)).extractLsb' 0 4 = a := by
  revert a; decide

theorem run2 (a : BitVec 4) (b : BitVec 7) : Statement (.run2 a b) := by
  intro _
  have hb := terminal_group b
  have ha := run2_first a
  simp only [encode, decode, decodeRun]
  rw [if_pos ⟨ha.1, hb.1⟩, ha.2, hb.2]

theorem run3_first (a : BitVec 2) :
    Machine.byteFlag (0b100000#6 ++ a) = true ∧
      (0b100000#6 ++ a : BitVec (6 + 2)).extractLsb' 2 5 = 0#5 ∧
      (0b100000#6 ++ a : BitVec (6 + 2)).extractLsb' 0 2 = a := by
  revert a; decide

theorem run3 (a : BitVec 2) (b c : BitVec 7) : Statement (.run3 a b c) := by
  intro _
  have ha := run3_first a
  have hb := continuation_group b
  have hc := terminal_group c
  simp only [encode, decode, decodeRun]
  rw [if_pos ⟨ha.1, hb.1, hc.1⟩, if_pos ha.2.1, ha.2.2, hb.2, hc.2]

/-- The fields of a well-formed RUN4 word do not start with five zeros: the value is 0x10000 or more. -/
theorem run4_first (a b c : BitVec 7) (h : Instr.wellFormed (.run4 a b c) = true) :
    (1#1 ++ a : BitVec (1 + 7)).extractLsb' 2 5 ≠ 0#5 := by
  have zeros : ∀ x : BitVec 7, (1#1 ++ x : BitVec (1 + 7)).extractLsb' 2 5 = 0#5 → x.toNat < 4 := by decide
  intro hz
  have low := zeros a hz
  have hb := b.isLt
  have hc := c.isLt
  simp only [Instr.wellFormed, Config.classFourFrom, decide_eq_true_eq, BitVec.toNat_append] at h
  rw [← Nat.shiftLeft_add_eq_or_of_lt (by omega), ← Nat.shiftLeft_add_eq_or_of_lt (by omega)] at h
  simp only [Nat.shiftLeft_eq] at h
  omega

theorem run4 (a b c : BitVec 7) : Statement (.run4 a b c) := by
  intro h
  have ha := continuation_group a
  have hb := continuation_group b
  have hc := terminal_group c
  simp only [encode, decode, decodeRun]
  rw [if_pos ⟨ha.1, hb.1, hc.1⟩, if_neg (run4_first a b c h), ha.2, hb.2, hc.2]

theorem classify (v : Value) : Statement (.classify v) := fun _ => rfl

theorem enc (v : Value) : Statement (.enc v) := fun _ => rfl

theorem decByte (b : Byte) : Statement (.decByte b) := fun _ => rfl

theorem decEnd (x : Byte) : Statement (.decEnd x) := fun _ => rfl

theorem decClear (x : Byte) : Statement (.decClear x) := fun _ => rfl

end Sys2Proof.Laws.DecodeEncode
end

