-- ==== Sys2Proof/Tests/Slice0.lean ====
section
/-! SUPPORT. Tests on one step or one word, expected results from the spec's own vectors (spec/95_test_vectors.md, or
the rule named), and for each statement with hypotheses a witness that meets them. -/

namespace Sys2Proof.Tests

open Sys2Proof.Machine

/-- A state with the six registers given, in the order of spec/95_test_vectors.md, and nothing pending. -/
def at6 (acc : Acc) (ovf runOpen : Bool) (off : Nat) (err : BitVec 2) (errOff : Nat) : State :=
  ⟨⟨acc, ovf, runOpen, off, err, errOff⟩, [], none⟩

/-- The next state of an outcome, if it is one. -/
def nextOf : Host.Outcome State Fault Refusal → Option State
  | .next s => some s
  | .fault _ => none
  | .refused _ => none

/-- The refusal of an outcome, if it is one. -/
def refusalOf : Host.Outcome State Fault Refusal → Option Refusal
  | .next _ => none
  | .fault _ => none
  | .refused r => some r

/-- The response an instruction gives from a state. -/
def answer (i : Instr) (s : State) : Option Response :=
  (nextOf (exec i s)).bind State.rsp

/-- The six registers after an instruction. -/
def registers (i : Instr) (s : State) : Option Bgd :=
  (nextOf (exec i s)).map State.bgd

def decoded (r : Request) : Option Instr :=
  match decode r with
  | .ok i => some i
  | .error _ => none

/-! ### Well-formedness -/

theorem test_wellFormed_refuses_run2_below_class_two : (Instr.run2 0b0000 0b1111111).wellFormed = false := by decide
theorem test_wellFormed_refuses_run3_below_class_three : (Instr.run3 0b00 0b0001111 0b1111111).wellFormed = false := by
  decide
theorem test_wellFormed_refuses_run4_below_class_four :
    (Instr.run4 0b0000011 0b1111111 0b1111111).wellFormed = false := by decide
theorem test_wellFormed_admits_first_of_each_class :
    (Instr.run2 0b0001 0).wellFormed = true ∧ (Instr.run3 0b00 0b0010000 0).wellFormed = true ∧
      (Instr.run4 0b0000100 0 0).wellFormed = true := by decide

/-! ### Decoding: words written out bit by bit from R61, R63 to R66, R70, R71 -/

theorem test_decode_kimCont : decoded (.kimByte 0b11100001) = some (.kimCont 0b1100001) := by decide
theorem test_decode_kimTerm : decoded (.kimByte 0b01100000) = some (.kimTerm 0b1100000) := by decide
theorem test_decode_run1 : decoded (.run [0b01100011]) = some (.run1 0b1100011) := by decide
theorem test_decode_run2 :
    decoded (.run [0b10000001, 0b01011111]) = some (.run2 0b0001 0b1011111) := by decide
theorem test_decode_run3 :
    decoded (.run [0b10000000, 0b11001100, 0b00000011]) = some (.run3 0b00 0b1001100 0b0000011) := by decide
theorem test_decode_run4 :
    decoded (.run [0b10000100, 0b11100001, 0b00000000]) = some (.run4 0b0000100 0b1100001 0b0000000) := by decide
theorem test_decode_classify : decoded (.encoder 0b0 0xDF) = some (.classify 0xDF) := by decide
theorem test_decode_enc : decoded (.encoder 0b1 0x13080) = some (.enc 0x13080) := by decide
theorem test_decode_decByte : decoded (.decoder 0b00 0b10000100) = some (.decByte 0x84) := by decide
theorem test_decode_decEnd : decoded (.decoder 0b01 0x5A) = some (.decEnd 0x5A) := by decide
theorem test_decode_decClear : decoded (.decoder 0b10 0xA5) = some (.decClear 0xA5) := by decide
theorem test_decode_reserved : decoded (.decoder 0b11 0x00) = none := by decide
theorem test_decode_rejects_bad_runs :
    decoded (.run []) = none ∧ decoded (.run [0b10000001]) = none ∧ decoded (.run [0b10010001, 0]) = none ∧
      decoded (.run [0x81, 0x81]) = none ∧ decoded (.run [0x81, 0x00, 0x00]) = none := by decide

/-- The table's words, leftmost pattern bit most significant (R78, opcode_table.json). -/
theorem test_tableWord_rows :
    decodeTableWord 8 0x84 = some (.kimCont 0x04) ∧ decodeTableWord 8 0x5F = some (.kimTerm 0x5F) ∧
    decodeTableWord 16 0x815F = some (.run2 0x1 0x5F) ∧
    decodeTableWord 24 0x80CC03 = some (.run3 0 0x4C 0x03) ∧
    decodeTableWord 24 0x84E100 = some (.run4 0x04 0x61 0x00) := by decide
theorem test_tableWord_commands :
    decodeTableWord 40 0x0000000DF = some (.classify 0xDF) ∧ decodeTableWord 40 0x1000000DF = some (.enc 0xDF) ∧
    decodeTableWord 16 0x084 = some (.decByte 0x84) ∧ decodeTableWord 16 0x100 = some (.decEnd 0) ∧
    decodeTableWord 16 0x200 = some (.decClear 0) ∧ decodeTableWord 16 0x300 = none := by decide

/-! ### The encoder unit (95_test_vectors.md sections 2.1 and 2.4) -/

theorem test_classify_surrogate : answer (.classify 0xD800) State.reset =
    some (.encoder ⟨3, 16, 3, 5, 0, 0, 0, 0, 0⟩) := by decide
theorem test_classify_largest : answer (.classify 0xFFFFFFFF) State.reset =
    some (.encoder ⟨4, 21, 3, 0, 0, 0, 0, 0, 0⟩) := by decide
theorem test_enc_snowman : answer (.enc 0x2603) State.reset =
    some (.encoder ⟨3, 16, 3, 5, 3, 0x80, 0xCC, 0x03, 0⟩) := by decide
theorem test_enc_outOfRange : answer (.enc 0x200000) State.reset =
    some (.encoder ⟨4, 21, 3, 0, 0, 0, 0, 0, 1⟩) := by decide
theorem test_run1 : answer (.run1 0x63) State.reset =
    some (.encoder ⟨1, 7, 1, 0, 1, 0x63, 0, 0, 0⟩) := by decide
theorem test_run2 : answer (.run2 0x1 0x5F) State.reset =
    some (.encoder ⟨2, 11, 2, 3, 2, 0x81, 0x5F, 0, 0⟩) := by decide
theorem test_run3 : answer (.run3 0 0x4C 0x72) State.reset =
    some (.encoder ⟨3, 16, 3, 5, 3, 0x80, 0xCC, 0x72, 0⟩) := by decide
theorem test_run4 : answer (.run4 0x04 0x61 0x60) State.reset =
    some (.encoder ⟨4, 21, 3, 0, 3, 0x84, 0xE1, 0x60, 0⟩) := by decide

/-! ### The decoder unit (95_test_vectors.md sections 2.5 and 2.6) -/

theorem test_kimCont_overflows : registers (.kimCont 0x00) (at6 0x4000 false true 3 0 0) =
    some ⟨0, true, true, 4, 0, 0⟩ := by decide
theorem test_kimTerm_surrogate : registers (.kimTerm 0x00) (at6 0x1B0 false true 2 0 0) =
    some ⟨0x1B0, false, true, 2, 3, 2⟩ := by decide
theorem test_decByte_closes_run : nextOf (exec (.decByte 0x00) (at6 0x261 false true 2 0 0)) =
    some ⟨⟨0, false, false, 3, 0, 0⟩, [], some (.decoder ⟨true, 0x13080, false, 0⟩)⟩ := by decide
theorem test_decByte_sticky_overflow : nextOf (exec (.decByte 0x41) (at6 0 true true 4 0 0)) =
    some ⟨⟨0, true, true, 4, 3, 4⟩, [], some (.decoder ⟨false, 0, false, 3⟩)⟩ := by decide
theorem test_decEnd_truncated : nextOf (exec (.decEnd 0) (at6 0 false true 1 0 0)) =
    some ⟨⟨0, false, true, 1, 2, 1⟩, [], some (.decoder ⟨false, 0, false, 2⟩)⟩ := by decide
theorem test_decEnd_complete : nextOf (exec (.decEnd 0xFF) (at6 0 false false 6 0 0)) =
    some ⟨⟨0, false, false, 0, 0, 0⟩, [], some (.decoder ⟨false, 0, true, 0⟩)⟩ := by decide
theorem test_decClear_leaves_err : nextOf (exec (.decClear 0) (at6 1 false true 2 2 2)) =
    some ⟨⟨0, false, false, 0, 0, 0⟩, [], some (.decoder ⟨false, 0, false, 0⟩)⟩ := by decide

/-! ### The step -/

theorem test_step_runs_presented_word :
    (nextOf (step (State.reset.withFetchWord 16 0x084))).map State.bgd = some ⟨4, false, true, 1, 0, 0⟩ := by decide
theorem test_step_reserved_repeats_err :
    nextOf (step { at6 1 false true 2 2 2 with inbox := [.request (.decoder 0b11 0)] }) =
      some ⟨⟨1, false, true, 2, 2, 2⟩, [], some (.decoder ⟨false, 0, false, 2⟩)⟩ := by decide
theorem test_step_reset_event :
    nextOf (step { at6 1 false true 2 2 2 with inbox := [.reset] }) = some State.reset := by decide

/-! ### Streams (95_test_vectors.md sections 1.2 and 2.7) -/

theorem test_decodeStream_document_vector :
    decodeStream [0x84, 0xE1, 0x00, 0x81, 0x5F, 0x61] = .ok [0x13080, 0xDF, 0x61] := by decide
theorem test_encodeStream_document_vector :
    encodeStream [0x13080, 0xDF, 0x61] = .ok [0x84, 0xE1, 0x00, 0x81, 0x5F, 0x61] := by decide
theorem test_encodeStream_outOfRange : encodeStream [0x61, 0x200000, 0x62] = .err .outOfRange 1 := by decide
theorem test_decodeStream_first_error_wins :
    decodeStream [0x41, 0x83, 0xB0, 0x00, 0x81] = .err .invalidScalarValue 3 := by decide
theorem test_decodeStream_noncanonical : decodeStream [0xFF, 0x7F] = .ok [0x3FFF] := by decide
theorem test_decodeStream_long_run :
    decodeStream [0x81, 0x80, 0x80, 0x80, 0x41] = .err .invalidScalarValue 4 := by decide

/-! ### Witnesses: the hypotheses of each statement can be met together, at the ends of each clause's range -/

theorem witness_LclFollowsClassTable :
    (0x7F#32).toNat < 0x80 ∧ (0x80 ≤ (0x80#32).toNat ∧ (0x7FF#32).toNat < 0x800) ∧
      (0x800 ≤ (0x800#32).toNat ∧ (0xFFFF#32).toNat < 0x10000) ∧ 0x10000 ≤ (0x10000#32).toNat := by decide
theorem witness_ClassifyAnswersClassRow :
    (0x7F#32).toNat < 0x80 ∧ (0x80 ≤ (0x80#32).toNat ∧ (0x80#32).toNat < 0x800) ∧
      (0x800 ≤ (0xFFFF#32).toNat ∧ (0xFFFF#32).toNat < 0x10000) ∧ 0x10000 ≤ (0xFFFFFFFF#32).toNat := by decide
theorem witness_ExtractTakesGroupSlices :
    (0x7F#32).toNat < 2 ^ 7 ∧ (0x3FFF#32).toNat < 2 ^ 14 ∧ (0x1FFFFF#32).toNat < 2 ^ 21 := by simp
theorem witness_PackInvertsExtract :
    1 ≤ 3 ∧ 3 ≤ 3 ∧ (0x1FFFFF#32).toNat < 2 ^ (7 * 3) ∧ (0x3FFF#32).toNat < 2 ^ (7 * 2) ∧
      (0x7F#32).toNat < 2 ^ (7 * 1) := by decide
theorem witness_EncClassOneEmitsRun1 : (0x7F#32).toNat < 0x80 := by decide
theorem witness_EncClassTwoEmitsRun2 : 0x80 ≤ (0x80#32).toNat ∧ (0x80#32).toNat < 0x800 := by decide
theorem witness_EncClassThreeEmitsRun3 : 0x800 ≤ (0xFFFF#32).toNat ∧ (0xFFFF#32).toNat < 0x10000 := by decide
theorem witness_EncClassFourEmitsRun4 :
    0x10000 ≤ (0x10FFFF#32).toNat ∧ (0x10FFFF#32).toNat < 0x200000 ∧ isScalar (0x10FFFF#32).toNat = true := by decide
theorem witness_EncAnswerFillsLanesInOrder : (0x1FFFFF#32).toNat < 0x200000 := by decide
/-- The lane clauses: a run of one byte, and a run of two. -/
theorem witness_EncAnswerFillsLanesInOrder_lanes :
    (encAnswer 0x41).encLen.toNat ≤ 1 ∧ (encAnswer 0xDF).encLen.toNat ≤ 2 := by decide
theorem witness_EncOutOfRangeExactlyFromCapacity :
    0x200000 ≤ (0x200000#32).toNat ∧ (0x1FFFFF#32).toNat < 0x200000 := by decide
theorem witness_EncOfNonScalarIsRejectedOnDecode :
    (0xDFFF#32).toNat < 0x200000 ∧ isScalar (0xDFFF#32).toNat = false ∧ (0x110000#32).toNat < 0x200000 ∧
      isScalar (0x110000#32).toNat = false := by decide
theorem witness_EncRunIsOneRunOfItsValue : (0x1FFFFF#32).toNat < 0x200000 := by decide
theorem witness_RunRowsEmitTheirOwnBytes :
    (Instr.run1 0x7F).wellFormed = true ∧ encode (.run1 0x7F) = .run [0x7F] ∧
    (Instr.run2 0x1 0x00).wellFormed = true ∧ encode (.run2 0x1 0x00) = .run [0x81, 0x00] ∧
    (Instr.run3 0x0 0x10 0x00).wellFormed = true ∧ encode (.run3 0x0 0x10 0x00) = .run [0x80, 0x90, 0x00] ∧
    (Instr.run4 0x04 0x00 0x00).wellFormed = true ∧ encode (.run4 0x04 0x00 0x00) = .run [0x84, 0x80, 0x00] := by
  decide
theorem witness_EncoderOpsReadAndWriteNoState : isEncoderOp (.enc 0) = true := by decide
theorem witness_ContinuationByteShiftsGroupIn :
    State.reset.bgd.err = 0 ∧ (0x80#8).getLsbD 7 = true := by decide
/-- A run that ends as the largest legal value, 0x10FFFF. -/
theorem witness_TerminalByteEmitsLegalScalar :
    let s := at6 0x21FF false true 2 0 0
    let x := s.bgd.acc.extractLsb' 0 14 ++ (0x7F#8).extractLsb' 0 7
    s.bgd.err = 0 ∧ (0x7F#8).getLsbD 7 = false ∧ s.bgd.ovf = false ∧ s.bgd.acc.extractLsb' 14 7 = 0 ∧
      x.toNat ≤ 0x10FFFF ∧ ¬(0xD800 ≤ x.toNat ∧ x.toNat ≤ 0xDFFF) := by decide
/-- Each of the four ways: an overflow before, an overflow now, 0x110000, and 0xD800. -/
theorem witness_TerminalByteRaisesInvalidScalarValue :
    (0x00#8).getLsbD 7 = false ∧ (at6 0 true true 4 0 0).bgd.err = 0 ∧ (at6 0 true true 4 0 0).bgd.ovf = true ∧
    (at6 0x4000 false true 3 0 0).bgd.acc.extractLsb' 14 7 ≠ 0 ∧
    0x10FFFF < ((at6 0x2200 false true 2 0 0).bgd.acc.extractLsb' 0 14 ++ (0x00#8).extractLsb' 0 7).toNat ∧
    0xD800 ≤ ((at6 0x1B0 false true 2 0 0).bgd.acc.extractLsb' 0 14 ++ (0x00#8).extractLsb' 0 7).toNat ∧
    ((at6 0x1B0 false true 2 0 0).bgd.acc.extractLsb' 0 14 ++ (0x00#8).extractLsb' 0 7).toNat ≤ 0xDFFF := by decide
theorem witness_DecEndCompletesStream :
    (at6 0 false false 6 0 0).bgd.err = 0 ∧ (at6 0 false false 6 0 0).bgd.runOpen = false := by decide
theorem witness_DecEndRaisesTruncated :
    (at6 0 false true 1 0 0).bgd.err = 0 ∧ (at6 0 false true 1 0 0).bgd.runOpen = true := by decide
theorem witness_ErrIgnoresDecoderOps :
    (at6 1 false true 2 2 2).bgd.err ≠ 0 ∧ (byteOf (.decByte 0x41)).isSome = true := by decide
theorem witness_ErrIgnoresDecoderOps_decEnd :
    (at6 1 false true 2 2 2).bgd.err ≠ 0 ∧ ∃ x, Instr.decEnd 0 = .decEnd x := ⟨by decide, 0, rfl⟩
theorem witness_RaisingOpsWriteErrAndOffsetOnly :
    ∃ t, exec (.decEnd 0) (at6 1 false true 2 0 0) = .next t ∧ (at6 1 false true 2 0 0).bgd.err = 0 ∧
      t.bgd.err ≠ 0 := ⟨_, rfl, by decide, by decide⟩
/-- The conditions of the clauses: each of IDLE, RUN and ERR, and each kind of operation. -/
theorem witness_ConditionTransitions :
    (at6 0 false false 0 0 0).bgd.condition = .idle ∧ (at6 0 false true 1 0 0).bgd.condition = .run ∧
    (at6 0 false true 1 2 1).bgd.condition = .err ∧ byteOf (.decByte 0x80) = some 0x80 ∧
    byteOf (.kimTerm 0x7F) = some 0x7F ∧ isEncoderOp (.classify 0) = true ∧
    (nextOf (exec (.decByte 0x80) (at6 0 false false 0 0 0))).isSome = true ∧
    (nextOf (exec (.kimTerm 0x7F) (at6 0 false true 1 0 0))).isSome = true ∧
    (nextOf (exec (.decEnd 0) (at6 0 false true 1 2 1))).isSome = true ∧
    (nextOf (exec (.decClear 0) (at6 0 false true 1 2 1))).isSome = true := by decide
theorem witness_OffCountsConsumedBytes :
    byteOf (.decByte 0x41) = some 0x41 ∧ isEncoderOp (.enc 0) = true ∧
    (registers (.decByte 0x41) (at6 0 false false 5 0 0)).map Bgd.off = some 6 ∧
    (registers (.decEnd 0) (at6 0 false false 5 0 0)).map Bgd.off = some 0 ∧
    (registers (.decClear 0) (at6 0 false false 5 0 0)).map Bgd.off = some 0 := by decide
theorem witness_ResultsDependOnRegistersOnly :
    ∃ s s' t t' : State, s ≠ s' ∧ s.bgd = s'.bgd ∧ exec (.decByte 0x41) s = .next t ∧
      exec (.decByte 0x41) s' = .next t' :=
  ⟨State.reset, State.reset.withFetchWord 8 0, _, _, by decide, rfl, rfl, rfl⟩
theorem witness_UnitsStepInAnyOrder :
    isEncoderOp (.enc 0x200000) = true ∧ isEncoderOp (.decByte 0xE1) = false ∧
      ∃ s₁ s₂, exec (.enc 0x200000) State.reset = .next s₁ ∧ exec (.decByte 0xE1) s₁ = .next s₂ :=
  ⟨by decide, by decide, _, _, rfl, rfl⟩
theorem witness_StepRunsTheDecodedInstruction :
    (State.reset.withFetchWord 8 0x84).inbox = .request (.kimByte 0x84) :: [] ∧
      decode (.kimByte 0x84) = .ok (.kimCont 0x04) := ⟨by decide, rfl⟩
theorem witness_FetchedWordRunsNext : decodeTableWord 24 0xFFFF7F = some (.run4 0x7F 0x7F 0x7F) := by decide
theorem witness_ReservedCodeIsIgnored :
    { State.reset with inbox := [.request (.decoder 0b11 0xFF)] }.inbox = .request (.decoder 0b11 0xFF) :: [] := rfl
theorem witness_ResetInputClearsRegisters :
    { at6 1 true true 2 3 2 with inbox := [.reset] }.inbox = .reset :: [] := rfl
theorem witness_IdleStepHoldsRegisters : (at6 1 true true 2 3 2).inbox = [] := rfl
theorem witness_EveryRequestIsAnswered :
    { State.reset with inbox := [.request (.decoder 0b11 0)] }.inbox = .request (.decoder 0b11 0) :: [] ∧
      ∀ bytes, Request.decoder 0b11 0 ≠ .run bytes := ⟨rfl, by intro _ h; cases h⟩
theorem witness_OnlyMalformedRunWordsAreRefused :
    refusalOf (step { State.reset with inbox := [.request (.run [0x80])] }) = some .notARunForm := by decide
theorem witness_OnlyClearOrResetLeavesErr :
    ∃ t, step { at6 1 false true 2 2 2 with inbox := [.request (.decoder 0b10 0)] } = .next t ∧
      (at6 1 false true 2 2 2).bgd.err ≠ 0 := ⟨_, rfl, by decide⟩
theorem witness_ErrIsFrozenUntilCleared :
    ∃ t, stepsTo 2 { at6 1 false true 2 2 2 with inbox := [.request (.decoder 0b00 0x41), .request (.encoder 1 0x41)] } t ∧
      (at6 1 false true 2 2 2).bgd.err ≠ 0 ∧
      ∀ e ∈ [HostEvent.request (.decoder 0b00 0x41), .request (.encoder 1 0x41)],
        e ≠ .reset ∧ ∀ x, e ≠ .request (.decoder 0b10 x) := by
  refine ⟨_, ⟨_, rfl, _, rfl, rfl⟩, by decide, ?_⟩
  intro e he
  simp only [List.mem_cons, List.not_mem_nil, or_false] at he
  rcases he with rfl | rfl <;> simp
theorem witness_StepKeepsInvariants :
    (at6 0x261 false true 2 0 0).bgd.Inv ∧
      ∃ t, step { at6 0x261 false true 2 0 0 with inbox := [.request (.kimByte 0x00)] } = .next t :=
  ⟨⟨by decide, by decide, by decide, by decide, by decide⟩, _, rfl⟩
theorem witness_InvariantsHoldAfterAnyOperations :
    ∃ t, stepsTo 2 { State.reset with inbox := [.request (.decoder 0b00 0x81), .request (.decoder 0b01 0)] } t ∧
      t.bgd.err = 2 := ⟨_, ⟨_, rfl, _, rfl, rfl⟩, by decide⟩
theorem witness_HostObtainsEncodeStream :
    (∀ v ∈ [(0x1FFFFF : Value), 0], v.toNat < 0x200000) ∧ 0x200000 ≤ (0x200000 : Value).toNat ∧
      legalText [0x10FFFF, 0xD7FF, 0xE000] = true := ⟨by simp, by simp, by decide⟩
theorem witness_HostObtainsDecodeStream :
    State.reset.bgd = Bgd.initial ∧ decodeStream [0x7F] = .ok [0x7F] ∧ decodeStream [0x80] = .err .truncated 1 ∧
      decodeStream [0x83, 0xBF, 0x7F] = .err .invalidScalarValue 2 := by decide
theorem witness_DecodeInvertsEncodeOnTexts :
    legalText [0, 0xD7FF, 0xE000, 0x10FFFF] = true ∧
      (∀ v ∈ [(0x41 : Value), 0x110000], v.toNat < 0x200000) ∧ legalText [0x41, 0x110000] = false :=
  ⟨by decide, by simp, by decide⟩
theorem witness_RunIsJudgedByItsUnboundedValue :
    isScalar (naturalValue 0 ([0x43, 0x7F] ++ [0x7F])) = true ∧
      isScalar (naturalValue 0 ([0x01, 0x00, 0x00, 0x00] ++ [0x41])) = false := by decide
theorem witness_EncodeStreamConcatenates :
    encodeStream [0x13080] = .ok [0x84, 0xE1, 0x00] ∧ encodeStream [0xDF, 0x61] = .ok [0x81, 0x5F, 0x61] := by decide
theorem witness_DecodeStreamConcatenates :
    decodeStream [0x41] = .ok [0x41] ∧ decodeStream [0x80, 0x41] = .ok [0x41] ∧
      decodeStream [0x61, 0x81] = .err .truncated 2 := by decide
theorem witness_FirstInvalidRunDecidesTheStream :
    decodeStream [0x41, 0x83, 0xB0, 0x00] = .err .invalidScalarValue 3 := by decide
theorem witness_TruncatedExactlyOnOpenEnd :
    wellFormedBytes [0x80] = false ∧ decodeStream [0x61, 0x81] = .err .truncated 2 := by decide
theorem witness_EncodeStreamIsInjective : encodeStream [0x41] = .ok [0x41] := by decide
theorem witness_EncodedLengthIsSumOfByteCounts :
    encodeStream [0x63, 0x2603, 0x130E0] = .ok [0x63, 0x80, 0xCC, 0x03, 0x84, 0xE1, 0x60] := by decide
theorem witness_EncodedStreamSplitsIntoRunsOneWay :
    encodeStream [] = .ok [] ∧
      ([([0x01], 0x5F)] : List (List Group × Group)).flatMap (fun r => runOf r.1 r.2) = [0x81, 0x5F] := by decide
theorem witness_TableWordsDecodeBack :
    (Instr.run4 0x04 0x00 0x00).wellFormed = true ∧ ∀ a, Instr.run4 0x04 0x00 0x00 ≠ .run1 a :=
  ⟨by decide, by intro _ h; cases h⟩
theorem witness_DecodedRequestsEncodeBack : decode (.run [0x80, 0x41]) = .ok (.run2 0 0x41) := rfl
theorem witness_EveryByteIsOneOfTwoForms : 0x80 ≤ (0x80#8).toNat ∧ (0x7F#8).toNat < 0x80 := by decide
theorem witness_CanonicalRunsAreTheWellFormedRunWords :
    (0x1FFFFF#32).toNat < 0x200000 ∧ encRun 0x1FFFFF = [0xFF, 0xFF, 0x7F] ∧
      decoded (.run [0xFF, 0xFF, 0x7F]) = some (.run4 0x7F 0x7F 0x7F) := by decide

end Sys2Proof.Tests
end

-- ==== The two forms of a KIM byte ====
section
/-! What bit 7 of a byte says as a number, and the form the decoder gives the byte by it (R60, R61). -/

namespace Sys2Proof.Machine

/-- Bit 7 is the top bit of a byte, so it splits the 256 values at 0x80. -/
theorem byteFlag_eq_decide_toNat (b : Byte) : byteFlag b = decide (0x80 ≤ b.toNat) :=
  calc byteFlag b = b.msb := (BitVec.msb_eq_getLsbD_last b).symm
    _ = decide (0x80 ≤ b.toNat) := BitVec.msb_eq_decide b

theorem byteFlag_eq_true_iff (b : Byte) : byteFlag b = true ↔ 0x80 ≤ b.toNat := by
  rw [byteFlag_eq_decide_toNat, decide_eq_true_iff]

theorem byteFlag_eq_false_iff (b : Byte) : byteFlag b = false ↔ b.toNat < 0x80 := by
  rw [byteFlag_eq_decide_toNat, decide_eq_false_iff_not, not_le]

end Sys2Proof.Machine

namespace Sys2Proof

open Sys2Proof.Machine

theorem decode_kimByte_of_flag {b : Byte} (h : byteFlag b = true) :
    decode (.kimByte b) = .ok (.kimCont (byteGroup b)) := by
  simp only [decode, decodeKimByte, if_pos h]

theorem decode_kimByte_of_noFlag {b : Byte} (h : byteFlag b = false) :
    decode (.kimByte b) = .ok (.kimTerm (byteGroup b)) := by
  simp only [decode, decodeKimByte, h, Bool.false_eq_true, if_false]

/-- Settles O57: 0x80 and up is bit 7 set, below is bit 7 clear, and the decoder answers with a form for each. -/
theorem everyByteIsOneOfTwoForms : Obligations.EveryByteIsOneOfTwoForms := by
  intro b
  constructor
  · intro hhigh
    exact decode_kimByte_of_flag ((byteFlag_eq_true_iff b).mpr hhigh)
  · intro hlow
    exact decode_kimByte_of_noFlag ((byteFlag_eq_false_iff b).mpr hlow)

end Sys2Proof
end

-- ==== The rows of the length-class LUT ====
section
/-! Which row of the class table the LUT answers with, one equation per range of the operand (R90). -/

namespace Sys2Proof.Machine

theorem lcl_of_lt_classTwo {v : Value} (h : v.toNat < 0x80) : lcl v = ⟨1, 7, 1, 0⟩ :=
  if_pos h

theorem lcl_of_lt_classThree {v : Value} (hge : 0x80 ≤ v.toNat) (hlt : v.toNat < 0x800) :
    lcl v = ⟨2, 11, 2, 3⟩ :=
  (if_neg hge.not_gt).trans (if_pos hlt)

theorem lcl_of_lt_classFour {v : Value} (hge : 0x800 ≤ v.toNat) (hlt : v.toNat < 0x10000) :
    lcl v = ⟨3, 16, 3, 5⟩ :=
  have hgeTwo : 0x80 ≤ v.toNat := le_trans (by decide) hge
  (if_neg hgeTwo.not_gt).trans <| (if_neg hge.not_gt).trans (if_pos hlt)

/-- The last row has no upper limit: it is what remains when all three thresholds are reached. -/
theorem lcl_of_classFour_le {v : Value} (h : 0x10000 ≤ v.toNat) : lcl v = ⟨4, 21, 3, 0⟩ :=
  have hgeTwo : 0x80 ≤ v.toNat := le_trans (by decide) h
  have hgeThree : 0x800 ≤ v.toNat := le_trans (by decide) h
  (if_neg hgeTwo.not_gt).trans <| (if_neg hgeThree.not_gt).trans (if_neg h.not_gt)

/-- Settles O1: the obligation's four clauses are the four rows. -/
theorem lclFollowsClassTable : Obligations.LclFollowsClassTable := fun _ =>
  ⟨lcl_of_lt_classTwo, fun ⟨hge, hlt⟩ => lcl_of_lt_classThree hge hlt,
    fun ⟨hge, hlt⟩ => lcl_of_lt_classFour hge hlt, lcl_of_classFour_le⟩

end Sys2Proof.Machine
end

-- ==== Slices of a value and the legal scalar values ====
section
/-! Where a value fits its groups, `Extract` is a slice of the value itself (R100); the legal set of R104. -/

namespace Sys2Proof.Machine

/-- The zero extension of R100 drops out: a slice of a value that fits `g` groups can be taken before it. -/
theorem extract_eq_extractLsb' {v : Value} {g : Nat} (i : Nat) (h : v.toNat < 2 ^ (7 * g)) :
    extract v g i = v.extractLsb' (7 * (g - 1 - i)) 7 := by
  apply BitVec.eq_of_toNat_eq
  rw [extract_toNat v g i h, BitVec.extractLsb'_toNat, Nat.shiftRight_eq_div_pow]

/-- Settles O4: each entry of R100's table is the slice at `7 * (g - 1 - i)`, with that offset computed. -/
theorem extractTakesGroupSlices : Obligations.ExtractTakesGroupSlices := fun _ =>
  ⟨fun h => extract_eq_extractLsb' (g := 1) 0 h,
    fun h => ⟨extract_eq_extractLsb' (g := 2) 0 h, extract_eq_extractLsb' (g := 2) 1 h⟩,
    fun h => ⟨extract_eq_extractLsb' (g := 3) 0 h, extract_eq_extractLsb' (g := 3) 1 h,
      extract_eq_extractLsb' (g := 3) 2 h⟩⟩

/-- Settles O5: to lie outside the surrogate range is to lie below its first value or above its last. -/
theorem isScalarIsTheLegalSet : Obligations.IsScalarIsTheLegalSet := by
  intro x
  rw [isScalar_iff, not_and_or, not_le, not_le]

end Sys2Proof.Machine
end

-- ==== Concatenated bytes and padded slices ====
section
/-! The bytes of 42_encoder.md are concatenations of a flag, padding zeros and a slice of the operand; here they are
tied to `MakeByte` (R101) and to the operand as a number. -/

namespace Sys2Proof.Machine

theorem makeByte_true (g : Group) : makeByte true g = 1#1 ++ g := rfl

theorem makeByte_false (g : Group) : makeByte false g = 0#1 ++ g := rfl

theorem continuationByte_toNat (g : Group) : (1#1 ++ g : Byte).toNat = 128 + g.toNat :=
  append_group_toNat 1#1 g

/-- A slice that reaches the top of a value holds the whole quotient: nothing above it is cut off. -/
theorem extractLsb'_toNat_of_lt {v : Value} {start len : Nat} (h : v.toNat < 2 ^ (start + len)) :
    (v.extractLsb' start len).toNat = v.toNat / 2 ^ start := by
  have hquot : v.toNat / 2 ^ start < 2 ^ len := Nat.div_lt_of_lt_mul (by rwa [← Nat.pow_add])
  rw [BitVec.extractLsb'_toNat, Nat.shiftRight_eq_div_pow, Nat.mod_eq_of_lt hquot]

/-- The padding of a class: where the value ends `pad` bits below the top of a slice, those bits are 0. -/
theorem extractLsb'_eq_zero_append {v : Value} {start len : Nat} (pad : Nat) (h : v.toNat < 2 ^ (start + len)) :
    v.extractLsb' start (pad + len) = 0#pad ++ v.extractLsb' start len := by
  have hwide : v.toNat < 2 ^ (start + (pad + len)) := h.trans_le (Nat.pow_le_pow_right (by decide) (by omega))
  apply BitVec.eq_of_toNat_eq
  rw [extractLsb'_toNat_of_lt hwide, BitVec.toNat_append, BitVec.toNat_ofNat, Nat.zero_mod, Nat.zero_shiftLeft,
    Nat.zero_or, extractLsb'_toNat_of_lt h]

end Sys2Proof.Machine
end

-- ==== The runs ENC emits ====
section
/-! ENC below the capacity completes with the run of its operand (R110), and the run of each class of two or three
bytes is the form RUN2, RUN3 or RUN4 (R114 to R116). -/

namespace Sys2Proof.Machine

theorem exec_enc_of_lt_capacity {v : Value} (s : State) (h : v.toNat < 0x200000) :
    exec (.enc v) s = .next { s with rsp := some (.encoder (EncResponse.emitBytes (lcl v) (encRun v))) } := by
  have hanswer : encAnswer v = EncResponse.emitBytes (lcl v) (encRun v) := if_neg h.not_ge
  rw [← hanswer]
  rfl

@[simp] theorem EncResponse.emitBytes_encErr (row : LclRow) (bytes : List Byte) :
    (EncResponse.emitBytes row bytes).encErr = 0 := rfl

@[simp] theorem EncResponse.emitBytes_encB0_cons (row : LclRow) (b : Byte) (bytes : List Byte) :
    (EncResponse.emitBytes row (b :: bytes)).encB0 = b := rfl

/-- The host reads back what was emitted, as long as it fits the three lanes (R45). -/
theorem EncResponse.bytes_emitBytes (row : LclRow) {bytes : List Byte} (h : bytes.length ≤ 3) :
    (EncResponse.emitBytes row bytes).bytes = bytes := by
  match bytes, h with
  | [], _ => rfl
  | [_], _ => rfl
  | [_, _], _ => rfl
  | [_, _, _], _ => rfl

theorem encRun_length (v : Value) : (encRun v).length = (lcl v).byteCount := by
  simp only [encRun, List.length_map, List.length_range]

theorem encRun_length_le (v : Value) : (encRun v).length ≤ 3 := by
  rw [encRun_length]
  obtain ⟨-, hrow⟩ | ⟨-, -, hrow⟩ | ⟨-, -, hrow⟩ | ⟨-, hrow⟩ := lcl_cases v <;> rw [hrow] <;> decide

theorem EncResponse.bytes_emitBytes_encRun (row : LclRow) (v : Value) :
    (EncResponse.emitBytes row (encRun v)).bytes = encRun v :=
  EncResponse.bytes_emitBytes row (encRun_length_le v)

/-- Where the run opens with the slice at `start`, its first byte is `0x80 | (v >> start)` (R114 to R116). -/
theorem encB0_toNat_of_encRun {v : Value} {start : Nat} {rest : List Byte} (row : LclRow)
    (hrun : encRun v = (1#1 ++ v.extractLsb' start 7) :: rest) (hlt : v.toNat < 2 ^ (start + 7)) :
    (EncResponse.emitBytes row (encRun v)).encB0.toNat = 128 + v.toNat / 2 ^ start := by
  rw [hrun, EncResponse.emitBytes_encB0_cons, continuationByte_toNat, extractLsb'_toNat_of_lt hlt]

/-- Class 2 has two groups. -/
theorem encRun_of_twoGroups {v : Value} (hge : 0x80 ≤ v.toNat) (hlt : v.toNat < 0x800) :
    encRun v = [1#1 ++ v.extractLsb' 7 7, 0#1 ++ v.extractLsb' 0 7] := by
  have hcount : (lcl v).byteCount = 2 := by rw [lcl_of_lt_classThree hge hlt]
  have hfits : v.toNat < 2 ^ (7 * 2) := hlt.trans (by decide)
  rw [encRun_of_byteCount_two v hcount, extract_eq_extractLsb' 0 hfits, extract_eq_extractLsb' 1 hfits,
    makeByte_true, makeByte_false]

/-- Classes 3 and 4 share the datapath of three groups; only the range of the first group differs (R116). -/
theorem encRun_of_threeGroups {v : Value} (hge : 0x800 ≤ v.toNat) (hlt : v.toNat < 0x200000) :
    encRun v = [1#1 ++ v.extractLsb' 14 7, 1#1 ++ v.extractLsb' 7 7, 0#1 ++ v.extractLsb' 0 7] := by
  have hcount : (lcl v).byteCount = 3 := by
    rcases lt_or_ge v.toNat 0x10000 with hthree | hfour
    · rw [lcl_of_lt_classFour hge hthree]
    · rw [lcl_of_classFour_le hfour]
  have hfits : v.toNat < 2 ^ (7 * 3) := hlt
  rw [encRun_of_byteCount_three v hcount, extract_eq_extractLsb' 0 hfits, extract_eq_extractLsb' 1 hfits,
    extract_eq_extractLsb' 2 hfits, makeByte_true, makeByte_true, makeByte_false]

/-- RUN2: the upper group is four bits of the value under three zeros (R114). -/
theorem encRun_of_classTwo {v : Value} (hge : 0x80 ≤ v.toNat) (hlt : v.toNat < 0x800) :
    encRun v = [1#1 ++ 0b000#3 ++ v.extractLsb' 7 4, 0#1 ++ v.extractLsb' 0 7] := by
  have hpad : v.extractLsb' 7 7 = 0b000#3 ++ v.extractLsb' 7 4 :=
    extractLsb'_eq_zero_append (start := 7) (len := 4) 3 hlt
  rw [encRun_of_twoGroups hge hlt, hpad, BitVec.append_assoc]
  rfl

/-- RUN3: the top group is two bits of the value under five zeros (R115). -/
theorem encRun_of_classThree {v : Value} (hge : 0x800 ≤ v.toNat) (hlt : v.toNat < 0x10000) :
    encRun v =
      [1#1 ++ 0b00000#5 ++ v.extractLsb' 14 2, 1#1 ++ v.extractLsb' 7 7, 0#1 ++ v.extractLsb' 0 7] := by
  have hpad : v.extractLsb' 14 7 = 0b00000#5 ++ v.extractLsb' 14 2 :=
    extractLsb'_eq_zero_append (start := 14) (len := 2) 5 hlt
  rw [encRun_of_threeGroups hge (hlt.trans (by decide)), hpad, BitVec.append_assoc]
  rfl

/-- Settles O9: RUN2's first byte is 0x80 plus `v >> 7`, which lies between 1 and 0xF. -/
theorem encClassTwoEmitsRun2 : Obligations.EncClassTwoEmitsRun2 := by
  intro v s hge hlt
  have hrun := encRun_of_classTwo hge hlt
  have hb0 := encB0_toNat_of_encRun (lcl v) (encRun_of_twoGroups hge hlt) (hlt.trans (by decide))
  have hfits : v.toNat < 0x200000 := hlt.trans (by decide)
  exact ⟨_, exec_enc_of_lt_capacity s hfits, (EncResponse.bytes_emitBytes_encRun _ v).trans hrun,
    EncResponse.emitBytes_encErr _ _, by omega, by omega⟩

/-- Settles O10: RUN3's first byte is 0x80 plus `v >> 14`, which is at most 3. -/
theorem encClassThreeEmitsRun3 : Obligations.EncClassThreeEmitsRun3 := by
  intro v s hge hlt
  have hfits : v.toNat < 0x200000 := hlt.trans (by decide)
  have hrun := encRun_of_classThree hge hlt
  have hb0 := encB0_toNat_of_encRun (lcl v) (encRun_of_threeGroups hge hfits) hfits
  exact ⟨_, exec_enc_of_lt_capacity s hfits, (EncResponse.bytes_emitBytes_encRun _ v).trans hrun,
    EncResponse.emitBytes_encErr _ _, by omega, by omega⟩

/-- Settles O11: RUN4's first byte is 0x80 plus `v >> 14`: at least 4 from 0x10000 up, and at most 0x43 for a value
that is legal. -/
theorem encClassFourEmitsRun4 : Obligations.EncClassFourEmitsRun4 := by
  intro v s hge hlt
  have hrun := encRun_of_threeGroups (le_trans (by decide) hge) hlt
  have hb0 := encB0_toNat_of_encRun (lcl v) hrun hlt
  refine ⟨_, exec_enc_of_lt_capacity s hlt, (EncResponse.bytes_emitBytes_encRun _ v).trans hrun,
    EncResponse.emitBytes_encErr _ _, fun hlegal => ?_⟩
  obtain ⟨hle, -⟩ := (isScalar_iff v.toNat).mp hlegal
  exact ⟨by omega, by omega⟩

end Sys2Proof.Machine
end

-- ==== What each row does, by the unit that performs it ====
section
/-! Every row of the opcode table is an encoder operation, hands a byte to the decoder, or is DEC_END or DEC_CLEAR;
one equation of `exec` for each kind, which later proofs cite instead of going through the eleven rows. -/

namespace Sys2Proof.Machine

theorem instr_kinds (i : Instr) :
    isEncoderOp i = true ∨ (∃ b, byteOf i = some b) ∨ (∃ x, i = .decEnd x) ∨ ∃ x, i = .decClear x := by
  cases i with
  | kimCont g => exact .inr (.inl ⟨_, rfl⟩)
  | kimTerm g => exact .inr (.inl ⟨_, rfl⟩)
  | decByte b => exact .inr (.inl ⟨_, rfl⟩)
  | decEnd x => exact .inr (.inr (.inl ⟨x, rfl⟩))
  | decClear x => exact .inr (.inr (.inr ⟨x, rfl⟩))
  | run1 | run2 | run3 | run4 | classify | enc => exact .inl rfl

theorem Bgd.consumeByte_makeByte_true (g : Group) : Bgd.consumeByte (makeByte true g) = Bgd.continueRun g := by
  funext d
  rw [Bgd.consumeByte_of_flag _ d (byteFlag_makeByte true g), byteGroup_makeByte]

theorem Bgd.consumeByte_makeByte_false (g : Group) : Bgd.consumeByte (makeByte false g) = Bgd.endRun g := by
  funext d
  rw [Bgd.consumeByte_of_noFlag _ d (byteFlag_makeByte false g), byteGroup_makeByte]

/-- The answer of an encoder row is fixed by its fields, before any state is given (R20). -/
theorem exec_of_isEncoderOp {i : Instr} (h : isEncoderOp i = true) : ∃ r, ∀ s, exec i s = s.encoderOp r := by
  cases i with
  | kimCont | kimTerm | decByte | decEnd | decClear => exact nomatch h
  | run1 | run2 | run3 | run4 | classify | enc => exact ⟨_, fun _ => rfl⟩

/-- KIM.CONT and KIM.TERM are DEC_BYTE of the byte they stand for (R131). -/
theorem exec_of_byteOf {i : Instr} {b : Byte} (h : byteOf i = some b) (s : State) :
    exec i s = s.decoderOp (Bgd.unlessError (Bgd.consumeByte b)) := by
  cases i with
  | kimCont g => cases h; rw [Bgd.consumeByte_makeByte_true]; rfl
  | kimTerm g => cases h; rw [Bgd.consumeByte_makeByte_false]; rfl
  | decByte b => cases h; rfl
  | run1 | run2 | run3 | run4 | classify | enc | decEnd | decClear => exact nomatch h

theorem exec_decEnd (x : Byte) (s : State) :
    exec (.decEnd x) s = s.decoderOp (Bgd.unlessError Bgd.endStream) := rfl

theorem exec_decClear (x : Byte) (s : State) : exec (.decClear x) s = s.decoderOp fun _ => Bgd.clear := rfl

/-- Every row is one of two shared operations, chosen by the row alone. -/
theorem exec_shape (i : Instr) :
    (isEncoderOp i = true ∧ ∃ r, ∀ s, exec i s = s.encoderOp r) ∨
    (isEncoderOp i = false ∧ ∃ op, ∀ s, exec i s = s.decoderOp op) := by
  cases henc : isEncoderOp i with
  | true => exact .inl ⟨rfl, exec_of_isEncoderOp henc⟩
  | false =>
    refine .inr ⟨rfl, ?_⟩
    obtain h | ⟨b, hb⟩ | ⟨x, rfl⟩ | ⟨x, rfl⟩ := instr_kinds i
    · exact absurd h (by simp [henc])
    · exact ⟨_, exec_of_byteOf hb⟩
    · exact ⟨_, exec_decEnd x⟩
    · exact ⟨_, exec_decClear x⟩

/-- No row stops, and none touches the pending events. -/
theorem exec_next (i : Instr) (s : State) :
    ∃ t, exec i s = .next t ∧ t.inbox = s.inbox ∧ t.rsp.isSome = true := by
  obtain ⟨-, r, hexec⟩ | ⟨-, op, hexec⟩ := exec_shape i
  · exact ⟨_, hexec s, rfl, rfl⟩
  · exact ⟨_, hexec s, rfl, rfl⟩

/-- Settles O18: the response of `exec_of_isEncoderOp` is chosen before the state. -/
theorem encoderOpsReadAndWriteNoState : Obligations.EncoderOpsReadAndWriteNoState :=
  fun _ => exec_of_isEncoderOp

/-- Settles O29: of the state, a decoder row reads the six registers and an encoder row nothing. -/
theorem resultsDependOnRegistersOnly : Obligations.ResultsDependOnRegistersOnly := by
  intro i s s' t t' hbgd ht ht'
  obtain ⟨-, r, hexec⟩ | ⟨-, op, hexec⟩ := exec_shape i
  · rw [hexec, State.encoderOp_next_iff] at ht ht'
    subst ht ht'
    exact ⟨hbgd, rfl⟩
  · rw [hexec, State.decoderOp_next_iff] at ht ht'
    subst ht ht'
    simp [hbgd]

/-- Settles O30: the encoder writes its response alone, the decoder does not read it. -/
theorem unitsStepInAnyOrder : Obligations.UnitsStepInAnyOrder := by
  intro e d s s₁ s₂ he hd hs₁ hs₂
  obtain ⟨r, hexecE⟩ := exec_of_isEncoderOp he
  obtain ⟨hd', -⟩ | ⟨-, op, hexecD⟩ := exec_shape d
  · exact absurd hd' (by simp [hd])
  · rw [hexecE, State.encoderOp_next_iff] at hs₁
    rw [hexecD, State.decoderOp_next_iff] at hs₂
    subst hs₁ hs₂
    exact ⟨_, _, hexecD s, hexecE _, rfl, rfl, rfl, rfl⟩

end Sys2Proof.Machine
end

-- ==== The decoder's operations on its registers ====
section
/-! What a byte and the end of the stream do outside ERR, as the cases a byte can fall in, and from them the
statements about single decoder operations (R131 to R135, R185 to R188). -/

namespace Sys2Proof.Machine

/-- The registers after a run that ended in a legal value (R133). -/
def Bgd.runEnded (d : Bgd) : Bgd :=
  { d with acc := 0, ovf := false, runOpen := false, off := d.off + 1 }

@[simp] theorem Bgd.runEnded_acc (d : Bgd) : d.runEnded.acc = 0 := rfl
@[simp] theorem Bgd.runEnded_ovf (d : Bgd) : d.runEnded.ovf = false := rfl
@[simp] theorem Bgd.runEnded_runOpen (d : Bgd) : d.runEnded.runOpen = false := rfl
@[simp] theorem Bgd.runEnded_off (d : Bgd) : d.runEnded.off = d.off + 1 := rfl
@[simp] theorem Bgd.runEnded_err (d : Bgd) : d.runEnded.err = d.err := rfl
@[simp] theorem Bgd.runEnded_errOff (d : Bgd) : d.runEnded.errOff = d.errOff := rfl

/-- The test of R105 on the registers as they are before the last byte `b` of a run. -/
def Bgd.accepts (b : Byte) (d : Bgd) : Bool :=
  valid (pack d.acc d.ovf (byteGroup b)).1 (pack d.acc d.ovf (byteGroup b)).2

theorem Bgd.accepts_iff (b : Byte) (d : Bgd) :
    d.accepts b = true ↔
      (d.ovf = false ∧ d.acc.extractLsb' 14 7 = 0) ∧
      (d.acc.extractLsb' 0 14 ++ b.extractLsb' 0 7).toNat ≤ 0x10FFFF ∧
      ¬(0xD800 ≤ (d.acc.extractLsb' 0 14 ++ b.extractLsb' 0 7).toNat ∧
        (d.acc.extractLsb' 0 14 ++ b.extractLsb' 0 7).toNat ≤ 0xDFFF) := by
  have hovf : (pack d.acc d.ovf (byteGroup b)).2 = false ↔ d.ovf = false ∧ d.acc.extractLsb' 14 7 = 0 := by
    simp [pack, overflowAfter]
  rw [Bgd.accepts, valid_iff, hovf, isScalarIsTheLegalSet]
  rfl

theorem Bgd.consumeByte_of_accepts {b : Byte} {d : Bgd} (hflag : byteFlag b = false) (h : d.accepts b = true) :
    d.consumeByte b = (d.runEnded, DecResponse.emitScalar (pack d.acc d.ovf (byteGroup b)).1) :=
  (Bgd.consumeByte_of_noFlag b d hflag).trans (if_pos h)

theorem Bgd.consumeByte_of_rejects {b : Byte} {d : Bgd} (hflag : byteFlag b = false) (h : d.accepts b = false) :
    d.consumeByte b = d.raiseError Config.errInvalidScalarValue :=
  (Bgd.consumeByte_of_noFlag b d hflag).trans (if_neg (ne_true_of_eq_false h))

/-- The three things a byte can do outside ERR. -/
theorem Bgd.consumeByte_cases (b : Byte) (d : Bgd) :
    (byteFlag b = true ∧ d.consumeByte b = d.continueRun (byteGroup b)) ∨
    (byteFlag b = false ∧ d.consumeByte b =
      (d.runEnded, DecResponse.emitScalar (pack d.acc d.ovf (byteGroup b)).1)) ∨
    (byteFlag b = false ∧ d.consumeByte b = d.raiseError Config.errInvalidScalarValue) := by
  cases hflag : byteFlag b with
  | true => exact .inl ⟨rfl, Bgd.consumeByte_of_flag b d hflag⟩
  | false =>
    cases h : d.accepts b with
    | true => exact .inr (.inl ⟨rfl, Bgd.consumeByte_of_accepts hflag h⟩)
    | false => exact .inr (.inr ⟨rfl, Bgd.consumeByte_of_rejects hflag h⟩)

/-- Outside ERR the guard of R188 is open: the byte, or the end of the stream, acts on the registers. -/
theorem exec_byte_of_noError {i : Instr} {b : Byte} {s : State} (hbyte : byteOf i = some b) (herr : s.bgd.err = 0) :
    exec i s = s.decoderOp fun _ => s.bgd.consumeByte b := by
  rw [exec_of_byteOf hbyte, State.decoderOp, Bgd.unlessError_of_noError _ _ herr]
  rfl

theorem exec_decEnd_of_noError (x : Byte) {s : State} (herr : s.bgd.err = 0) :
    exec (.decEnd x) s = s.decoderOp fun _ => s.bgd.endStream := by
  rw [exec_decEnd, State.decoderOp, Bgd.unlessError_of_noError _ _ herr]
  rfl

theorem byteOf_kimCont_group {b : Byte} (h : byteFlag b = true) : byteOf (.kimCont (byteGroup b)) = some b := by
  rw [byteOf, ← h, makeByte_flag_group]

theorem byteOf_kimTerm_group {b : Byte} (h : byteFlag b = false) : byteOf (.kimTerm (byteGroup b)) = some b := by
  rw [byteOf, ← h, makeByte_flag_group]

/-- In ERR the rows that R188 names answer with the error held. -/
theorem exec_of_error {i : Instr} {s : State} (herr : s.bgd.err ≠ 0)
    (hi : (byteOf i).isSome = true ∨ ∃ x, i = .decEnd x) :
    exec i s = .next { s with rsp := some (.decoder (DecResponse.silent s.bgd.err)) } := by
  have hguarded : ∃ op, exec i s = s.decoderOp (Bgd.unlessError op) := by
    obtain hbyte | ⟨x, rfl⟩ := hi
    · obtain ⟨b, hb⟩ := Option.isSome_iff_exists.mp hbyte
      exact ⟨_, exec_of_byteOf hb s⟩
    · exact ⟨_, exec_decEnd x s⟩
  obtain ⟨op, hexec⟩ := hguarded
  rw [hexec, State.decoderOp, Bgd.unlessError_of_error op _ herr]

/-- Settles O19: both rows hand the byte over, and a byte with its flag set continues the run. -/
theorem continuationByteShiftsGroupIn : Obligations.ContinuationByteShiftsGroupIn := by
  intro b s herr hflag t
  have hexec : ∀ i, byteOf i = some b → exec i s = .next t := by
    intro i hi
    rw [exec_byte_of_noError hi herr, Bgd.consumeByte_of_flag b _ hflag]
    simp only [State.decoderOp, Bgd.continueRun, pack, overflowAfter, t, herr]
    rfl
  exact ⟨hexec _ rfl, hexec _ (byteOf_kimCont_group hflag)⟩

/-- Settles O20: the five conditions are the test that the byte passes. -/
theorem terminalByteEmitsLegalScalar : Obligations.TerminalByteEmitsLegalScalar := by
  intro b s herr hflag hovf htop hle hsurrogate t
  have haccepts : s.bgd.accepts b = true := (Bgd.accepts_iff b s.bgd).mpr ⟨⟨hovf, htop⟩, hle, hsurrogate⟩
  have hexec : ∀ i, byteOf i = some b → exec i s = .next t := by
    intro i hi
    rw [exec_byte_of_noError hi herr, Bgd.consumeByte_of_accepts hflag haccepts]
    simp only [State.decoderOp, Bgd.runEnded, pack, t, herr]
    rfl
  exact ⟨hexec _ rfl, hexec _ (byteOf_kimTerm_group hflag)⟩

/-- Settles O21: each of the four conditions makes the byte fail the test. -/
theorem terminalByteRaisesInvalidScalarValue : Obligations.TerminalByteRaisesInvalidScalarValue := by
  intro b s herr hflag hbad t
  have hrejects : s.bgd.accepts b = false := by
    rw [← Bool.not_eq_true, Bgd.accepts_iff]
    rintro ⟨⟨hovf, htop⟩, hle, hsurrogate⟩
    obtain h | h | h | h := hbad
    · exact absurd hovf (by simp [h])
    · exact h htop
    · exact absurd hle h.not_ge
    · exact hsurrogate h
  have hexec : ∀ i, byteOf i = some b → exec i s = .next t := by
    intro i hi
    rw [exec_byte_of_noError hi herr, Bgd.consumeByte_of_rejects hflag hrejects]
    rfl
  exact ⟨hexec _ rfl, hexec _ (byteOf_kimTerm_group hflag)⟩

/-- Settles O22. -/
theorem decEndCompletesStream : Obligations.DecEndCompletesStream := by
  intro x s herr hclosed
  rw [exec_decEnd_of_noError x herr, Bgd.endStream, hclosed]
  rfl

/-- Settles O23. -/
theorem decEndRaisesTruncated : Obligations.DecEndRaisesTruncated := by
  intro x s herr hopen
  rw [exec_decEnd_of_noError x herr, Bgd.endStream, hopen]
  rfl

/-- Settles O24: `Bgd.clear` does not look at the registers. -/
theorem decClearGivesInitialState : Obligations.DecClearGivesInitialState := fun x s => exec_decClear x s

/-- Settles O25. -/
theorem errIgnoresDecoderOps : Obligations.ErrIgnoresDecoderOps := fun _ _ herr hi => exec_of_error herr hi

/-- Settles O26: of the three kinds that write registers, a byte raises in one case and DEC_END in one. -/
theorem raisingOpsWriteErrAndOffsetOnly : Obligations.RaisingOpsWriteErrAndOffsetOnly := by
  intro i s t ht herr hraised
  obtain henc | ⟨b, hb⟩ | ⟨x, rfl⟩ | ⟨x, rfl⟩ := instr_kinds i
  · obtain ⟨r, hexec⟩ := exec_of_isEncoderOp henc
    rw [hexec, State.encoderOp_next_iff] at ht
    subst ht
    exact absurd herr hraised
  · rw [exec_byte_of_noError hb herr, State.decoderOp_next_iff] at ht
    obtain ⟨-, hstep⟩ | ⟨-, hstep⟩ | ⟨hflag, hstep⟩ := s.bgd.consumeByte_cases b
    · simp [ht, hstep, herr] at hraised
    · simp [ht, hstep, herr] at hraised
    · rw [hstep] at ht
      subst ht
      exact ⟨rfl, rfl, rfl, .inr ⟨rfl, b, hb, hflag⟩⟩
  · rw [exec_decEnd_of_noError x herr, State.decoderOp_next_iff] at ht
    obtain ⟨hopen, hstep⟩ | ⟨-, hstep⟩ := s.bgd.endStream_cases
    · rw [hstep] at ht
      subst ht
      exact ⟨rfl, rfl, rfl, .inl ⟨rfl, hopen, x, rfl⟩⟩
    · simp [ht, hstep] at hraised
  · rw [exec_decClear, State.decoderOp_next_iff] at ht
    subst ht
    exact absurd rfl hraised

end Sys2Proof.Machine
end

-- ==== Conditions, the byte count and the invariants ====
section
/-! How each kind of row moves the decoder between its conditions (R32), how it counts (R27), and that it keeps the
invariants of the reachable state (R31). -/

namespace Sys2Proof.Machine

theorem Bgd.condition_eq_err_iff (d : Bgd) : d.condition = .err ↔ d.err ≠ 0 := by
  unfold Bgd.condition
  split_ifs with herr <;> simpa using herr

theorem Bgd.condition_eq_idle_iff (d : Bgd) : d.condition = .idle ↔ d.err = 0 ∧ d.runOpen = false := by
  unfold Bgd.condition
  split_ifs with herr hopen
  · simpa using fun h => absurd h herr
  · simp [hopen]
  · simpa [hopen] using herr

theorem Bgd.condition_eq_run_iff (d : Bgd) : d.condition = .run ↔ d.err = 0 ∧ d.runOpen = true := by
  unfold Bgd.condition
  split_ifs with herr hopen
  · simpa using fun h => absurd h herr
  · simpa [hopen] using herr
  · simp [hopen]

theorem bgd_of_exec_encoder {i : Instr} {s t : State} (henc : isEncoderOp i = true) (ht : exec i s = .next t) :
    t.bgd = s.bgd := by
  obtain ⟨r, hexec⟩ := exec_of_isEncoderOp henc
  rw [hexec, State.encoderOp_next_iff] at ht
  rw [ht]

theorem bgd_of_exec_error {i : Instr} {s t : State} (hi : (byteOf i).isSome = true ∨ ∃ x, i = .decEnd x)
    (herr : s.bgd.err ≠ 0) (ht : exec i s = .next t) : t.bgd = s.bgd := by
  rw [exec_of_error herr hi, Host.Outcome.next.injEq] at ht
  rw [← ht]

/-- The registers and the response after a byte outside ERR. -/
theorem result_of_exec_byte {i : Instr} {b : Byte} {s t : State} (hb : byteOf i = some b) (herr : s.bgd.err = 0)
    (ht : exec i s = .next t) :
    t.bgd = (s.bgd.consumeByte b).1 ∧ t.rsp = some (.decoder (s.bgd.consumeByte b).2) := by
  rw [exec_byte_of_noError hb herr, State.decoderOp_next_iff] at ht
  rw [ht]
  exact ⟨rfl, rfl⟩

theorem bgd_of_exec_decEnd {x : Byte} {s t : State} (herr : s.bgd.err = 0) (ht : exec (.decEnd x) s = .next t) :
    t.bgd = s.bgd.endStream.1 := by
  rw [exec_decEnd_of_noError x herr, State.decoderOp_next_iff] at ht
  rw [ht]

theorem bgd_of_exec_decClear {x : Byte} {s t : State} (ht : exec (.decClear x) s = .next t) :
    t.bgd = Bgd.initial := by
  rw [exec_decClear, State.decoderOp_next_iff] at ht
  rw [ht]
  rfl

/-- Settles O27: one clause for each kind of row and condition. -/
theorem conditionTransitions : Obligations.ConditionTransitions := by
  intro i s t ht
  have noError : s.bgd.condition ≠ .err → s.bgd.err = 0 := by
    intro h
    rwa [ne_eq, Bgd.condition_eq_err_iff, not_not] at h
  refine ⟨?encoder, ?continuation, ?terminal, ?endIdle, ?endRun, ?clear, ?frozen⟩
  case encoder =>
    intro henc
    rw [bgd_of_exec_encoder henc ht]
  case continuation =>
    intro b hb hcond hflag
    have herr := noError hcond
    obtain ⟨hbgd, -⟩ := result_of_exec_byte hb herr ht
    rw [hbgd, Bgd.consumeByte_of_flag b _ hflag, Bgd.condition_eq_run_iff]
    exact ⟨herr, rfl⟩
  case terminal =>
    intro b hb hcond hflag
    have herr := noError hcond
    obtain ⟨hbgd, hrsp⟩ := result_of_exec_byte hb herr ht
    obtain ⟨hset, -⟩ | ⟨-, hstep⟩ | ⟨-, hstep⟩ := s.bgd.consumeByte_cases b
    · exact absurd (hset.symm.trans hflag) (by decide)
    · rw [hbgd, hrsp, hstep, Bgd.condition_eq_idle_iff]
      exact .inl ⟨⟨herr, rfl⟩, _, rfl⟩
    · rw [hbgd, hrsp, hstep, Bgd.condition_eq_err_iff]
      exact .inr ⟨by simp, rfl⟩
  case endIdle =>
    rintro x rfl hcond
    obtain ⟨herr, hclosed⟩ := (Bgd.condition_eq_idle_iff _).mp hcond
    rw [bgd_of_exec_decEnd herr ht, Bgd.endStream, hclosed]
    rfl
  case endRun =>
    rintro x rfl hcond
    obtain ⟨herr, hopen⟩ := (Bgd.condition_eq_run_iff _).mp hcond
    rw [bgd_of_exec_decEnd herr ht, Bgd.endStream, hopen, Bgd.condition_eq_err_iff]
    simp
  case clear =>
    rintro x rfl
    rw [bgd_of_exec_decClear ht]
    rfl
  case frozen =>
    intro hi hcond
    rw [bgd_of_exec_error hi ((Bgd.condition_eq_err_iff _).mp hcond) ht, hcond]

/-- Settles O28: a byte raises the count unless it raises an error or finds one. -/
theorem offCountsConsumedBytes : Obligations.OffCountsConsumedBytes := by
  intro i s t ht
  refine ⟨?byte, fun henc => by rw [bgd_of_exec_encoder henc ht], ?decEnd, ?decClear⟩
  case byte =>
    intro b hb
    by_cases herr : s.bgd.err = 0
    · obtain ⟨hbgd, -⟩ := result_of_exec_byte hb herr ht
      obtain ⟨-, hstep⟩ | ⟨-, hstep⟩ | ⟨-, hstep⟩ := s.bgd.consumeByte_cases b <;> simp [hbgd, hstep, herr]
    · rw [bgd_of_exec_error (.inl (by simp [hb])) herr ht, if_neg fun h => herr h.1]
  case decEnd =>
    rintro x rfl
    by_cases herr : s.bgd.err = 0
    · have hbgd := bgd_of_exec_decEnd herr ht
      obtain ⟨-, hstep⟩ | ⟨-, hstep⟩ := s.bgd.endStream_cases <;> simp [hbgd, hstep]
    · rw [bgd_of_exec_error (.inr ⟨x, rfl⟩) herr ht, if_neg herr]
  case decClear =>
    rintro x rfl
    rw [bgd_of_exec_decClear ht]
    rfl

theorem Bgd.inv_initial : Bgd.initial.Inv where
  idleIsClear := fun _ => ⟨rfl, rfl⟩
  neverOutOfRange := by decide
  offsetOnlyWithError := fun _ => rfl
  truncatedAtEnd := fun h => absurd h (by decide)
  invalidAtByte := fun h => absurd h (by decide)

/-- Settles O41: the reset registers are the initial ones. -/
theorem resetMeetsInvariants : Obligations.ResetMeetsInvariants := Bgd.inv_initial

/-- Settles O40. -/
theorem resetRegistersAreZero : Obligations.ResetRegistersAreZero := State.reset_bgd

/-- Where no error is held, the invariants ask for two things only. -/
theorem Bgd.inv_of_noError {d : Bgd} (herr : d.err = 0) (hidle : d.runOpen = false → d.acc = 0 ∧ d.ovf = false)
    (hoff : d.errOff = 0) : d.Inv where
  idleIsClear := hidle
  neverOutOfRange := by simp [herr]
  offsetOnlyWithError := fun _ => hoff
  truncatedAtEnd := by simp [herr]
  invalidAtByte := by simp [herr]

theorem Bgd.Inv.raise_truncated {d : Bgd} (hinv : d.Inv) (hopen : d.runOpen = true) :
    (d.raiseError Config.errTruncated).1.Inv where
  idleIsClear := hinv.idleIsClear
  neverOutOfRange := by simp
  offsetOnlyWithError := by simp
  truncatedAtEnd := fun _ => ⟨hopen, rfl⟩
  invalidAtByte := by simp

theorem Bgd.Inv.raise_invalid {d : Bgd} (hinv : d.Inv) : (d.raiseError Config.errInvalidScalarValue).1.Inv where
  idleIsClear := hinv.idleIsClear
  neverOutOfRange := by simp
  offsetOnlyWithError := by simp
  truncatedAtEnd := by simp
  invalidAtByte := fun _ => rfl

theorem Bgd.Inv.continueRun {d : Bgd} (hinv : d.Inv) (herr : d.err = 0) (g : Group) : (d.continueRun g).1.Inv :=
  Bgd.inv_of_noError herr (by simp) (hinv.offsetOnlyWithError herr)

theorem Bgd.Inv.runEnded {d : Bgd} (hinv : d.Inv) (herr : d.err = 0) : d.runEnded.Inv :=
  Bgd.inv_of_noError herr (fun _ => ⟨rfl, rfl⟩) (hinv.offsetOnlyWithError herr)

theorem Bgd.Inv.consumeByte {d : Bgd} (hinv : d.Inv) (herr : d.err = 0) (b : Byte) : (d.consumeByte b).1.Inv := by
  obtain ⟨-, hstep⟩ | ⟨-, hstep⟩ | ⟨-, hstep⟩ := d.consumeByte_cases b
  · rw [hstep]; exact hinv.continueRun herr _
  · rw [hstep]; exact hinv.runEnded herr
  · rw [hstep]; exact hinv.raise_invalid

theorem Bgd.Inv.endStream {d : Bgd} (hinv : d.Inv) : d.endStream.1.Inv := by
  obtain ⟨hopen, hstep⟩ | ⟨-, hstep⟩ := d.endStream_cases
  · rw [hstep]; exact hinv.raise_truncated hopen
  · rw [hstep]; exact Bgd.inv_initial

/-- Every row keeps the invariants. -/
theorem Bgd.Inv.exec {i : Instr} {s t : State} (hinv : s.bgd.Inv) (ht : exec i s = .next t) : t.bgd.Inv := by
  obtain henc | ⟨b, hb⟩ | ⟨x, rfl⟩ | ⟨x, rfl⟩ := instr_kinds i
  · rwa [bgd_of_exec_encoder henc ht]
  · by_cases herr : s.bgd.err = 0
    · obtain ⟨hbgd, -⟩ := result_of_exec_byte hb herr ht
      rw [hbgd]
      exact hinv.consumeByte herr b
    · rwa [bgd_of_exec_error (.inl (by simp [hb])) herr ht]
  · by_cases herr : s.bgd.err = 0
    · rw [bgd_of_exec_decEnd herr ht]
      exact hinv.endStream
    · rwa [bgd_of_exec_error (.inr ⟨x, rfl⟩) herr ht]
  · rw [bgd_of_exec_decClear ht]
    exact Bgd.inv_initial

end Sys2Proof.Machine
end

-- ==== Requests, words and their instructions ====
section
/-! The decoder of requests read backwards: what decodes is written back bit for bit, a request that decodes to
nothing is one of two, and a table word is the request of its row (R60 to R73, R78). -/

namespace Sys2Proof

open Sys2Proof.Machine

theorem terminalByte_of_noFlag {b : Byte} (h : byteFlag b = false) : (0#1 ++ byteGroup b : Byte) = b := by
  rw [← makeByte_false, ← h, makeByte_flag_group]

theorem continuationByte_of_flag {b : Byte} (h : byteFlag b = true) : (1#1 ++ byteGroup b : Byte) = b := by
  rw [← makeByte_true, ← h, makeByte_flag_group]

/-- The first byte of a RUN2 word is its pattern's four bits above the field. -/
theorem run2_first_of_pattern {b : Byte} (h : b.extractLsb' 4 4 = 0b1000#4) :
    (0b1000#4 ++ b.extractLsb' 0 4 : Byte) = b := by
  revert b; decide

/-- The first byte of a RUN3 word is a flag and five zeros above the field. -/
theorem run3_first_of_pattern {b : Byte} (hflag : byteFlag b = true) (h : b.extractLsb' 2 5 = 0#5) :
    (0b100000#6 ++ b.extractLsb' 0 2 : Byte) = b := by
  revert b; decide

theorem decoderOp_cases (op : BitVec 2) : op = 0b00 ∨ op = 0b01 ∨ op = 0b10 ∨ op = 0b11 := by
  revert op; decide

theorem encoderOp_cases (op : BitVec 1) : op = 0 ∨ op = 1 := by
  revert op; decide

theorem encode_of_decodeKimByte (b : Byte) : encode (decodeKimByte b) = .kimByte b := by
  unfold decodeKimByte
  split_ifs with hflag
  · rw [encode, continuationByte_of_flag hflag]
  · rw [encode, terminalByte_of_noFlag (Bool.eq_false_iff.mpr hflag)]

theorem encode_of_decodeRun {bytes : List Byte} {i : Instr} (h : decodeRun bytes = .ok i) :
    encode i = .run bytes := by
  match bytes with
  | [] => exact nomatch h
  | [b0] =>
    simp only [decodeRun] at h
    split_ifs at h with h0
    cases h
    rw [encode, terminalByte_of_noFlag (Bool.eq_false_iff.mpr h0)]
  | [b0, b1] =>
    simp only [decodeRun] at h
    split_ifs at h with hform
    obtain ⟨h0, h1⟩ := hform
    cases h
    rw [encode, run2_first_of_pattern h0, terminalByte_of_noFlag h1]
  | [b0, b1, b2] =>
    simp only [decodeRun] at h
    split_ifs at h with hform hzeros
    all_goals
      obtain ⟨h0, h1, h2⟩ := hform
      cases h
    · rw [encode, run3_first_of_pattern h0 hzeros, continuationByte_of_flag h1, terminalByte_of_noFlag h2]
    · rw [encode, continuationByte_of_flag h0, continuationByte_of_flag h1, terminalByte_of_noFlag h2]
  | _ :: _ :: _ :: _ :: _ => exact nomatch h

/-- Settles O56: by the kind of request, each field of the instruction is a part of it and none is left over. -/
theorem decodedRequestsEncodeBack : Obligations.DecodedRequestsEncodeBack := by
  intro r i h
  cases r with
  | kimByte b =>
    cases h
    exact encode_of_decodeKimByte b
  | run bytes => exact encode_of_decodeRun h
  | encoder op v =>
    obtain rfl | rfl := encoderOp_cases op
    · cases h; rfl
    · cases h; rfl
  | decoder op b =>
    obtain rfl | rfl | rfl | rfl := decoderOp_cases op
    · cases h; rfl
    · cases h; rfl
    · cases h; rfl
    · exact nomatch h

/-- The run port's reader knows one error. -/
theorem decodeRun_error {bytes : List Byte} {e : DecodeError} (h : decodeRun bytes = .error e) :
    e = .notARunForm := by
  match bytes with
  | [] => cases h; rfl
  | [b0] =>
    simp only [decodeRun] at h
    split_ifs at h
    cases h; rfl
  | [b0, b1] =>
    simp only [decodeRun] at h
    split_ifs at h
    cases h; rfl
  | [b0, b1, b2] =>
    simp only [decodeRun] at h
    split_ifs at h
    cases h; rfl
  | _ :: _ :: _ :: _ :: _ => cases h; rfl

/-- A request that is no row of the table is the reserved code, or bytes on the run port. -/
theorem decode_error_cases {r : Request} {e : DecodeError} (h : decode r = .error e) :
    (e = .reservedDecOp ∧ ∃ x, r = .decoder 0b11 x) ∨ (e = .notARunForm ∧ ∃ bytes, r = .run bytes) := by
  cases r with
  | kimByte b => exact nomatch h
  | run bytes => exact .inr ⟨decodeRun_error h, bytes, rfl⟩
  | encoder op v =>
    simp only [decode] at h
    split_ifs at h
  | decoder op x =>
    obtain rfl | rfl | rfl | rfl := decoderOp_cases op
    · exact nomatch h
    · exact nomatch h
    · exact nomatch h
    · cases h
      exact .inl ⟨rfl, x, rfl⟩

/-- Settles O59: closed words, evaluated. -/
theorem writtenWordsDecodeRight : Obligations.WrittenWordsDecodeRight :=
  ⟨rfl, rfl, rfl, rfl, rfl, rfl, rfl⟩

/-- Division by a power of two, cut to the width of a field, is a slice. -/
theorem ofNat_div_eq_extractLsb' {n : Nat} (x : BitVec n) (start len : Nat) :
    BitVec.ofNat len (x.toNat / 2 ^ start) = x.extractLsb' start len := by
  rw [← Nat.shiftRight_eq_div_pow]
  rfl

theorem ofNat_append_right {n m : Nat} (x : BitVec n) (y : BitVec m) : BitVec.ofNat m (x ++ y).toNat = y := by
  rw [BitVec.ofNat_toNat, BitVec.setWidth_append_eq_right]

theorem ofNat_append_left {n m : Nat} (x : BitVec n) (y : BitVec m) :
    BitVec.ofNat n ((x ++ y).toNat / 2 ^ m) = x := by
  rw [ofNat_div_eq_extractLsb', BitVec.extractLsb'_append_eq_left]

theorem tableRequest_byte (b : Byte) : tableRequest 8 b.toNat = .kimByte b := by
  rw [tableRequest, if_pos ⟨rfl, b.isLt⟩, BitVec.ofNat_toNat, BitVec.setWidth_eq]

theorem tableRequest_decoder (op : BitVec 2) (b : Byte) : tableRequest 16 (op ++ b).toNat = .decoder op b := by
  have hop := ofNat_append_left op b
  have hb := ofNat_append_right op b
  rw [tableRequest, if_neg (not_and_of_not_left _ (by decide)), if_pos ⟨rfl, (op ++ b).isLt⟩]
  exact congr (congrArg _ hop) hb

/-- Sixteen bits are a run where they need more than the ten bits of a decoder request. -/
theorem tableRequest_twoBytes (x y : Byte) (h : 0x400 ≤ (x ++ y).toNat) :
    tableRequest 16 (x ++ y).toNat = .run [x, y] := by
  have hx := ofNat_append_left x y
  have hy := ofNat_append_right x y
  rw [tableRequest, if_neg (not_and_of_not_left _ (by decide)), if_neg fun hsmall => absurd hsmall.2 h.not_gt,
    if_pos ⟨rfl, (x ++ y).isLt⟩]
  exact congrArg _ (congr (congrArg _ hx) (congrArg (· :: []) hy))

theorem tableRequest_threeBytes (x y z : Byte) : tableRequest 24 (x ++ y ++ z).toNat = .run [x, y, z] := by
  have hx : BitVec.ofNat 8 ((x ++ y ++ z).toNat / 0x10000) = x := by
    refine (ofNat_div_eq_extractLsb' (x ++ y ++ z) 16 8).trans ?_
    rw [BitVec.extractLsb'_append_eq_of_le (by decide)]
    exact BitVec.extractLsb'_append_eq_left
  have hy : BitVec.ofNat 8 ((x ++ y ++ z).toNat / 0x100) = y := by
    refine (ofNat_div_eq_extractLsb' (x ++ y ++ z) 8 8).trans ?_
    rw [BitVec.extractLsb'_append_eq_of_le (by decide)]
    exact BitVec.extractLsb'_append_eq_right
  have hz := ofNat_append_right (x ++ y) z
  rw [tableRequest, if_neg (not_and_of_not_left _ (by decide)), if_neg (not_and_of_not_left _ (by decide)),
    if_neg (not_and_of_not_left _ (by decide)), if_pos ⟨rfl, (x ++ y ++ z).isLt⟩, hx, hy, hz]

theorem tableRequest_encoder (op : BitVec 1) (v : Value) : tableRequest 40 (op ++ v).toNat = .encoder op v := by
  have hop := ofNat_append_left op v
  have hv := ofNat_append_right op v
  rw [tableRequest, if_neg (not_and_of_not_left _ (by decide)), if_neg (not_and_of_not_left _ (by decide)),
    if_neg (not_and_of_not_left _ (by decide)), if_neg (not_and_of_not_left _ (by decide)),
    if_pos ⟨rfl, (op ++ v).isLt⟩]
  exact congr (congrArg _ hop) hv

/-- A flag and a group written after anything are a byte written after it. -/
theorem append_flag_group {n : Nat} (x : BitVec n) (f : BitVec 1) (g : Group) :
    x ++ f ++ g = x ++ (f ++ g : Byte) := BitVec.append_assoc

/-- A RUN2 word starts with a 1 bit, so it needs all sixteen bits. -/
theorem run2_word_ge (a : BitVec 4) (y : Byte) : 0x400 ≤ ((0b1000#4 ++ a : Byte) ++ y).toNat := by
  have hfirst : 0x80 ≤ (0b1000#4 ++ a : Byte).toNat := by revert a; decide
  rw [BitVec.toNat_append]
  refine le_trans ?_ Nat.left_le_or
  rw [Nat.shiftLeft_eq]
  omega

/-- The word of every row but RUN1 stands for the row's own request. -/
theorem tableRequest_tableWord {i : Instr} (h : ∀ a, i ≠ .run1 a) :
    tableRequest (tableWord i).1 (tableWord i).2 = encode i := by
  cases i with
  | kimCont g => exact tableRequest_byte _
  | kimTerm g => exact tableRequest_byte _
  | run1 a => exact absurd rfl (h a)
  | run2 a b =>
    simp only [tableWord, encode, append_flag_group]
    exact tableRequest_twoBytes _ _ (run2_word_ge a _)
  | run3 a b c =>
    simp only [tableWord, encode, append_flag_group]
    exact tableRequest_threeBytes _ _ _
  | run4 a b c =>
    simp only [tableWord, encode, append_flag_group]
    exact tableRequest_threeBytes _ _ _
  | classify v => exact tableRequest_encoder _ v
  | enc v => exact tableRequest_encoder _ v
  | decByte b => exact tableRequest_decoder _ b
  | decEnd x => exact tableRequest_decoder _ x
  | decClear x => exact tableRequest_decoder _ x

/-- A well-formed instruction is read back from the request that stands for it. -/
theorem decode_encode {i : Instr} (h : i.wellFormed = true) : decode (encode i) = .ok i := by
  cases i with
  | kimCont g => exact Laws.DecodeEncode.kimCont g h
  | kimTerm g => exact Laws.DecodeEncode.kimTerm g h
  | run1 a => exact Laws.DecodeEncode.run1 a h
  | run2 a b => exact Laws.DecodeEncode.run2 a b h
  | run3 a b c => exact Laws.DecodeEncode.run3 a b c h
  | run4 a b c => exact Laws.DecodeEncode.run4 a b c h
  | classify v => exact Laws.DecodeEncode.classify v h
  | enc v => exact Laws.DecodeEncode.enc v h
  | decByte b => exact Laws.DecodeEncode.decByte b h
  | decEnd x => exact Laws.DecodeEncode.decEnd x h
  | decClear x => exact Laws.DecodeEncode.decClear x h

theorem decodeTableWord_eq_some_iff (nbits w : Nat) (i : Instr) :
    decodeTableWord nbits w = some i ↔ decode (tableRequest nbits w) = .ok i := by
  unfold decodeTableWord
  split <;> rename_i hdecode <;> simp [hdecode]

/-- Settles O55: the word stands for the row's request, and the request is read back; RUN1's word is the byte of
KIM.TERM, of which the table's numbering makes a KIM byte. -/
theorem tableWordsDecodeBack : Obligations.TableWordsDecodeBack := by
  constructor
  · intro i hwf hrow
    rw [decodeTableWord_eq_some_iff, tableRequest_tableWord hrow, decode_encode hwf]
  · intro a
    have hbyte : tableRequest (tableWord (.run1 a)).1 (tableWord (.run1 a)).2 = encode (.kimTerm a) :=
      tableRequest_byte _
    rw [decodeTableWord_eq_some_iff, hbyte, decode_encode rfl]

end Sys2Proof
end

-- ==== The step ====
section
/-! What one step can do, by what the host presents (R11, R12, R143), said once; from it what any number of steps
keeps. -/

namespace Sys2Proof.Machine

/-- A request that is answered is an instruction executed, or the reserved code ignored. -/
theorem serve_next_cases {r : Request} {s t : State} (h : serve r s = .next t) :
    (∃ i, decode r = .ok i ∧ exec i s = .next t) ∨
    (decode r = .error .reservedDecOp ∧
      t = { s with rsp := some (.decoder (DecResponse.silent s.bgd.err)) }) := by
  match hdecode : decode r with
  | .ok i => exact .inl ⟨i, rfl, by rwa [serve_of_ok r i s hdecode] at h⟩
  | .error .reservedDecOp =>
    rw [serve_of_reserved r s hdecode, State.reservedOp, State.decoderOp_next_iff] at h
    exact .inr ⟨rfl, h⟩
  | .error .notARunForm =>
    rw [serve_of_notARunForm r s hdecode] at h
    exact nomatch h

theorem step_cases {s t : State} (h : step s = .next t) :
    (s.inbox = [] ∧ t = s.idle) ∨
    (∃ rest, s.inbox = .reset :: rest ∧ t = { s with inbox := rest }.resetInput) ∨
    (∃ r rest, s.inbox = .request r :: rest ∧ serve r { s with inbox := rest } = .next t) := by
  rw [step] at h
  match hinbox : s.inbox with
  | [] =>
    rw [takeEvent_of_nil s hinbox, Host.Outcome.next.injEq] at h
    exact .inl ⟨rfl, h.symm⟩
  | .reset :: rest =>
    rw [takeEvent_of_reset s rest hinbox, Host.Outcome.next.injEq] at h
    exact .inr (.inl ⟨rest, rfl, h.symm⟩)
  | .request r :: rest =>
    rw [takeEvent_of_request s r rest hinbox] at h
    exact .inr (.inr ⟨r, rest, rfl, h⟩)

theorem inbox_of_exec {i : Instr} {s t : State} (h : exec i s = .next t) : t.inbox = s.inbox := by
  obtain ⟨t', ht', hinbox, -⟩ := exec_next i s
  rw [ht', Host.Outcome.next.injEq] at h
  rw [← h, hinbox]

/-- A step takes one event, and none when there is none. -/
theorem inbox_of_step {s t : State} (h : step s = .next t) : t.inbox = s.inbox.tail := by
  obtain ⟨hinbox, rfl⟩ | ⟨rest, hinbox, rfl⟩ | ⟨r, rest, hinbox, hserve⟩ := step_cases h
  · simp [hinbox]
  · simp [hinbox]
  · obtain ⟨i, -, hexec⟩ | ⟨-, rfl⟩ := serve_next_cases hserve
    · rw [inbox_of_exec hexec, hinbox]; rfl
    · rw [hinbox]; rfl

/-- Settles O31. -/
theorem stepRunsTheDecodedInstruction : Obligations.StepRunsTheDecodedInstruction := by
  intro r rest i s hinbox hdecode
  rw [step, takeEvent_of_request s r rest hinbox, serve_of_ok r i _ hdecode]

/-- Settles O32: presenting a word and taking it off again leaves the state. -/
theorem fetchedWordRunsNext : Obligations.FetchedWordRunsNext := by
  intro nbits w i s hword
  have hdecode := (decodeTableWord_eq_some_iff nbits w i).mp hword
  exact stepRunsTheDecodedInstruction _ _ _ _ (State.withFetchWord_inbox s nbits w) hdecode

/-- Settles O33. -/
theorem reservedCodeIsIgnored : Obligations.ReservedCodeIsIgnored := by
  intro b rest s hinbox
  have hdecode : decode (.decoder 0b11 b) = .error .reservedDecOp := rfl
  rw [step, takeEvent_of_request s _ rest hinbox, serve_of_reserved _ _ hdecode]
  rfl

/-- Settles O34. -/
theorem resetInputClearsRegisters : Obligations.ResetInputClearsRegisters :=
  fun rest s hinbox => takeEvent_of_reset s rest hinbox

/-- Settles O35. -/
theorem idleStepHoldsRegisters : Obligations.IdleStepHoldsRegisters :=
  fun s hinbox => takeEvent_of_nil s hinbox

/-- Settles O36: a request that does not decode and is not on the run port is the reserved code. -/
theorem everyRequestIsAnswered : Obligations.EveryRequestIsAnswered := by
  intro s r rest hinbox hport
  rw [step, takeEvent_of_request s r rest hinbox]
  match hdecode : decode r with
  | .ok i =>
    rw [serve_of_ok r i _ hdecode]
    exact exec_next i _
  | .error e =>
    obtain ⟨rfl, -⟩ | ⟨-, bytes, hrun⟩ := decode_error_cases hdecode
    · rw [serve_of_reserved r _ hdecode]
      exact ⟨_, rfl, rfl, rfl⟩
    · exact absurd hrun (hport bytes)

theorem serve_refused_iff (r : Request) (s : State) (why : Refusal) :
    serve r s = .refused why ↔ why = .notARunForm ∧ decode r = .error .notARunForm := by
  match hdecode : decode r with
  | .ok i =>
    obtain ⟨t, hexec, -⟩ := exec_next i s
    simp [serve_of_ok r i s hdecode, hexec]
  | .error .reservedDecOp => simp [serve_of_reserved r s hdecode, State.reservedOp, State.decoderOp]
  | .error .notARunForm => simp [serve_of_notARunForm r s hdecode, eq_comm]

/-- Settles O37: only a request can be refused, and only one on the run port has the error that is refused. -/
theorem onlyMalformedRunWordsAreRefused : Obligations.OnlyMalformedRunWordsAreRefused := by
  intro s why
  rw [step]
  match hinbox : s.inbox with
  | [] => simp [takeEvent_of_nil s hinbox]
  | .reset :: rest => simp [takeEvent_of_reset s rest hinbox]
  | .request r :: rest =>
    rw [takeEvent_of_request s r rest hinbox, serve_refused_iff]
    refine and_congr_right fun _ => ⟨fun hdecode => ?_, ?_⟩
    · obtain ⟨he, -⟩ | ⟨-, bytes, rfl⟩ := decode_error_cases hdecode
      · exact nomatch he
      · exact ⟨bytes, rest, rfl, hdecode⟩
    · rintro ⟨bytes, rest', hcons, hdecode⟩
      cases hcons
      exact hdecode

/-- Settles O38: of the rows only DEC_CLEAR acts in ERR, and only one request decodes to it. -/
theorem onlyClearOrResetLeavesErr : Obligations.OnlyClearOrResetLeavesErr := by
  intro s t ht herr
  obtain ⟨-, rfl⟩ | ⟨rest, hinbox, rfl⟩ | ⟨r, rest, hinbox, hserve⟩ := step_cases ht
  · exact .inl rfl
  · exact .inr ⟨rfl, .inl (by rw [hinbox]; rfl)⟩
  · obtain ⟨i, hdecode, hexec⟩ | ⟨-, rfl⟩ := serve_next_cases hserve
    · obtain henc | ⟨b, hb⟩ | ⟨x, rfl⟩ | ⟨x, rfl⟩ := instr_kinds i
      · exact .inl (bgd_of_exec_encoder (s := { s with inbox := rest }) henc hexec)
      · exact .inl (bgd_of_exec_error (s := { s with inbox := rest }) (.inl (hb ▸ rfl)) herr hexec)
      · exact .inl (bgd_of_exec_error (s := { s with inbox := rest }) (.inr ⟨x, rfl⟩) herr hexec)
      · have hrequest : encode (.decClear x) = r := decodedRequestsEncodeBack r _ hdecode
        exact .inr ⟨bgd_of_exec_decClear hexec, .inr ⟨x, by rw [hinbox, ← hrequest]; rfl⟩⟩
    · exact .inl rfl

/-- Settles O39, by induction on the number of steps: one step keeps the registers, and leaves of the pending events
all but the first. -/
theorem errIsFrozenUntilCleared : Obligations.ErrIsFrozenUntilCleared := by
  intro n
  induction n with
  | zero =>
    rintro s t rfl - -
    rfl
  | succ n ih =>
    rintro s t ⟨m, hstep, hrest⟩ herr hevents
    have hkept : m.bgd = s.bgd := by
      obtain h | ⟨-, hreset | ⟨x, hclear⟩⟩ := onlyClearOrResetLeavesErr s m hstep herr
      · exact h
      · exact absurd rfl (hevents _ (List.mem_of_mem_head? hreset)).1
      · exact absurd rfl ((hevents _ (List.mem_of_mem_head? hclear)).2 x)
    have hpending : ∀ e ∈ m.inbox, e ≠ .reset ∧ ∀ x, e ≠ .request (.decoder 0b10 x) := by
      rw [inbox_of_step hstep]
      exact fun e he => hevents e (List.mem_of_mem_tail he)
    exact (ih m t hrest (by rwa [hkept]) hpending).trans hkept

/-- Settles O42: idling and the reserved code change no register, RESET gives the initial state, and every row keeps
the invariants. -/
theorem stepKeepsInvariants : Obligations.StepKeepsInvariants := by
  intro s t hinv ht
  obtain ⟨-, rfl⟩ | ⟨rest, -, rfl⟩ | ⟨r, rest, -, hserve⟩ := step_cases ht
  · exact hinv
  · exact Bgd.inv_initial
  · obtain ⟨i, -, hexec⟩ | ⟨-, rfl⟩ := serve_next_cases hserve
    · exact Bgd.Inv.exec (s := { s with inbox := rest }) hinv hexec
    · exact hinv

/-- What holds of the registers and is kept by every step holds after any number of them. -/
theorem inv_of_stepsTo {n : Nat} {s t : State} (hinv : s.bgd.Inv) (h : stepsTo n s t) : t.bgd.Inv := by
  induction n generalizing s with
  | zero =>
    obtain rfl := h
    exact hinv
  | succ n ih =>
    obtain ⟨m, hstep, hrest⟩ := h
    exact ih (stepKeepsInvariants s m hinv hstep) hrest

/-- Settles O43: the events are in the inbox, of which the invariants say nothing. -/
theorem invariantsHoldAfterAnyOperations : Obligations.InvariantsHoldAfterAnyOperations :=
  fun _ _ _ hsteps => inv_of_stepsTo Bgd.inv_initial hsteps

end Sys2Proof.Machine
end

-- ==== The accumulator and the unbounded value ====
section
/-! The accumulator with its sticky bit carries the value of the groups over unbounded integers (R103), and the groups
of a value carry the value (R107, R111). -/

namespace Sys2Proof.Machine

/-- Accumulator and flag after packing group after group. -/
def packAll (p : Acc × Bool) (gs : List Group) : Acc × Bool :=
  gs.foldl (fun p g => pack p.1 p.2 g) p

theorem packAll_append_singleton (p : Acc × Bool) (gs : List Group) (g : Group) :
    packAll p (gs ++ [g]) = pack (packAll p gs).1 (packAll p gs).2 g := by
  simp [packAll]

/-- What accumulator and flag say of the unbounded value `n`: its low 21 bits, and whether it has more (R103). -/
structure Carries (p : Acc × Bool) (n : Nat) : Prop where
  low : p.1.toNat = n % 2 ^ 21
  overflow : p.2 = true ↔ 2 ^ 21 ≤ n

theorem carries_zero : Carries (0, false) 0 := ⟨rfl, by simp⟩

/-- The step of R103: a bit leaves the accumulator exactly when the value outgrows 21 bits. -/
theorem Carries.pack {p : Acc × Bool} {n : Nat} (h : Carries p n) (g : Group) :
    Carries (Machine.pack p.1 p.2 g) (n * 128 + g.toNat) := by
  obtain ⟨hlow, hover⟩ := h
  have hg := g.isLt
  constructor
  · rw [pack_acc_toNat]
    omega
  · rw [pack_ovf, Bool.or_eq_true, hover, decide_eq_true_eq]
    omega

theorem Carries.packAll {p : Acc × Bool} {n : Nat} (h : Carries p n) (gs : List Group) :
    Carries (packAll p gs) (naturalValue n gs) := by
  induction gs generalizing p n with
  | nil => exact h
  | cons g gs ih => exact ih (h.pack g)

theorem Carries.eq_of_lt {p : Acc × Bool} {n : Nat} (h : Carries p n) (hn : n < 2 ^ 21) :
    p = (BitVec.ofNat 21 n, false) := by
  refine Prod.ext (BitVec.eq_of_toNat_eq ?_) ?_
  · rw [h.low, BitVec.toNat_ofNat]
  · rw [← Bool.not_eq_true, h.overflow]
    omega

/-- The 21-bit test of R105 is the test of R104 on the unbounded value: every legal value fits. -/
theorem Carries.valid_eq {p : Acc × Bool} {n : Nat} (h : Carries p n) : valid p.1 p.2 = isScalar n := by
  rcases lt_or_ge n (2 ^ 21) with hfits | hover
  · have hlow : p.1.toNat = n := h.low.trans (Nat.mod_eq_of_lt hfits)
    have hflag : p.2 = false := by rw [h.eq_of_lt hfits]
    rw [valid, hflag, hlow]
    rfl
  · have hscalar : isScalar n = false := by
      rw [← Bool.not_eq_true, isScalar_iff]
      omega
    rw [valid, h.overflow.mpr hover, hscalar]
    rfl

theorem lt_of_isScalar {n : Nat} (h : isScalar n = true) : n < 2 ^ 21 := by
  obtain ⟨hle, -⟩ := (isScalar_iff n).mp h
  omega

/-- Settles O6: the empty accumulator carries 0, and each group keeps the agreement. -/
theorem packAgreesWithUnboundedValue : Obligations.PackAgreesWithUnboundedValue := fun gs =>
  have h := carries_zero.packAll gs
  ⟨h.low, h.overflow⟩

@[simp] theorem naturalValue_nil (n : Nat) : naturalValue n [] = n := rfl

/-- The first `k` of `g` groups are the value without its lower groups. -/
theorem naturalValue_extract {v : Value} {g k : Nat} (hfits : v.toNat < 2 ^ (7 * g)) (hk : k ≤ g) :
    naturalValue 0 ((List.range k).map (extract v g)) = v.toNat / 2 ^ (7 * (g - k)) := by
  induction k with
  | zero => simp [Nat.div_eq_of_lt hfits]
  | succ k ih =>
    have hshift : 2 ^ (7 * (g - k)) = 2 ^ (7 * (g - 1 - k)) * 128 := by
      have hstep : 7 * (g - k) = 7 * (g - 1 - k) + 7 := by omega
      rw [hstep, Nat.pow_add]
    have hnext : g - (k + 1) = g - 1 - k := by omega
    rw [List.range_succ, List.map_append, List.map_singleton, naturalValue_append, ih (by omega),
      extract_toNat v g k hfits, hshift, ← Nat.div_div_eq_div_mul, Nat.div_add_mod', hnext]

/-- Settles O7: the groups carry the value, and a value of at most three groups fits the accumulator. -/
theorem packInvertsExtract : Obligations.PackInvertsExtract := by
  intro v g _ hg hfits
  have hvalue : naturalValue 0 ((List.range g).map (extract v g)) = v.toNat := by
    simpa using naturalValue_extract hfits le_rfl
  have hlt : v.toNat < 2 ^ 21 := hfits.trans_le (Nat.pow_le_pow_right (by decide) (by omega))
  have hcarries := carries_zero.packAll ((List.range g).map (extract v g))
  rw [hvalue] at hcarries
  rw [← BitVec.ofNat_toNat]
  exact hcarries.eq_of_lt hlt

/-- The groups of a value's run: those that go on, and the last. -/
def runParts (v : Value) : List Group × Group :=
  ((List.range ((lcl v).byteCount - 1)).map (extract v (lcl v).byteCount),
    extract v (lcl v).byteCount ((lcl v).byteCount - 1))

theorem byteCount_pos (v : Value) : 0 < (lcl v).byteCount := by
  obtain ⟨-, hrow⟩ | ⟨-, -, hrow⟩ | ⟨-, -, hrow⟩ | ⟨-, hrow⟩ := lcl_cases v <;> rw [hrow] <;> decide

theorem fits_byteCount {v : Value} (h : v.toNat < 0x200000) : v.toNat < 2 ^ (7 * (lcl v).byteCount) := by
  obtain ⟨hlt, hrow⟩ | ⟨-, hlt, hrow⟩ | ⟨-, hlt, hrow⟩ | ⟨-, hrow⟩ := lcl_cases v <;> rw [hrow] <;>
    norm_num <;> omega

theorem runParts_length (v : Value) : (runParts v).1.length + 1 = (lcl v).byteCount := by
  have hpos := byteCount_pos v
  simp only [runParts, List.length_map, List.length_range]
  omega

/-- R110's loop writes flag 1 for every group but the last. -/
theorem encRun_eq_runOf (v : Value) : encRun v = runOf (runParts v).1 (runParts v).2 := by
  obtain ⟨n, hn⟩ : ∃ n, (lcl v).byteCount = n + 1 := ⟨_, (Nat.sub_add_cancel (byteCount_pos v)).symm⟩
  have hflags : ∀ i ∈ List.range n,
      makeByte (decide (i < n)) (extract v (n + 1) i) = makeByte true (extract v (n + 1) i) := by
    intro i hi
    rw [decide_eq_true (List.mem_range.mp hi)]
  simp only [encRun, runParts, runOf, hn, Nat.add_sub_cancel, List.range_succ, List.map_append, List.map_cons,
    List.map_nil, List.map_map, List.map_congr_left hflags, lt_irrefl, decide_false]
  rfl

theorem naturalValue_runParts {v : Value} (h : v.toNat < 0x200000) :
    naturalValue 0 ((runParts v).1 ++ [(runParts v).2]) = v.toNat := by
  obtain ⟨n, hn⟩ : ∃ n, (lcl v).byteCount = n + 1 := ⟨_, (Nat.sub_add_cancel (byteCount_pos v)).symm⟩
  have hfits := fits_byteCount h
  have hgroups : (runParts v).1 ++ [(runParts v).2] = (List.range (n + 1)).map (extract v (n + 1)) := by
    simp only [runParts, hn, Nat.add_sub_cancel, List.range_succ, List.map_append, List.map_singleton]
  rw [hn] at hfits
  rw [hgroups]
  simpa using naturalValue_extract hfits le_rfl

/-- Settles O15: the groups are the run's own. -/
theorem encRunIsOneRunOfItsValue : Obligations.EncRunIsOneRunOfItsValue := fun v h =>
  ⟨_, _, encRun_eq_runOf v, runParts_length v, naturalValue_runParts h⟩

end Sys2Proof.Machine
end

-- ==== The encoder's answers and the RUN rows ====
section
/-! CLASSIFY and ENC for every operand (R92, R110, R113, R118), and the RUN rows as ENC of the value they spell
(R63 to R66). -/

namespace Sys2Proof.Machine

theorem exec_classify (v : Value) (s : State) :
    exec (.classify v) s = .next { s with rsp := some (.encoder (EncResponse.ofLcl (lcl v))) } := rfl

theorem exec_enc (v : Value) (s : State) :
    exec (.enc v) s = .next { s with rsp := some (.encoder (encAnswer v)) } := rfl

theorem encAnswer_of_lt_capacity {v : Value} (h : v.toNat < 0x200000) :
    encAnswer v = EncResponse.emitBytes (lcl v) (encRun v) := if_neg h.not_ge

theorem encAnswer_of_capacity_le {v : Value} (h : 0x200000 ≤ v.toNat) :
    encAnswer v = EncResponse.raiseOutOfRange ⟨4, 21, 3, 0⟩ := by
  rw [encAnswer, if_pos h, lcl_of_classFour_le (le_trans (by decide) h)]

/-- Settles O2: each of the four rows. -/
theorem lclRowsFitTheirGroups : Obligations.LclRowsFitTheirGroups := by
  intro v
  obtain ⟨hlt, hrow⟩ | ⟨-, hlt, hrow⟩ | ⟨-, hlt, hrow⟩ | ⟨-, hrow⟩ := lcl_cases v <;> rw [hrow] <;>
    norm_num <;> omega

/-- Settles O3: the response holds the row of the operand's range. -/
theorem classifyAnswersClassRow : Obligations.ClassifyAnswersClassRow := by
  intro v s
  refine ⟨fun h => ?_, fun ⟨hge, hlt⟩ => ?_, fun ⟨hge, hlt⟩ => ?_, fun h => ?_⟩
  · rw [exec_classify, lcl_of_lt_classTwo h]; rfl
  · rw [exec_classify, lcl_of_lt_classThree hge hlt]; rfl
  · rw [exec_classify, lcl_of_lt_classFour hge hlt]; rfl
  · rw [exec_classify, lcl_of_classFour_le h]; rfl

/-- Settles O13. -/
theorem encOutOfRangeExactlyFromCapacity : Obligations.EncOutOfRangeExactlyFromCapacity := by
  refine fun v s => ⟨fun h => ?_, fun h => ⟨_, exec_enc_of_lt_capacity s h, EncResponse.emitBytes_encErr _ _⟩⟩
  rw [exec_enc, encAnswer_of_capacity_le h]
  rfl

/-- Settles O8: the one group is the whole value. -/
theorem encClassOneEmitsRun1 : Obligations.EncClassOneEmitsRun1 := by
  intro v s h
  have hfits : v.toNat < 2 ^ (7 * 1) := h
  have hrun : encRun v = [0#1 ++ v.extractLsb' 0 7] := by
    rw [encRun_of_byteCount_one v (by rw [lcl_of_lt_classTwo h]), extract_eq_extractLsb' 0 hfits, makeByte_false]
  have hvalue : (0#1 ++ v.extractLsb' 0 7).toNat = v.toNat := by
    rw [append_group_toNat, extractLsb'_toNat_of_lt h]
    simp
  exact ⟨_, exec_enc_of_lt_capacity s (h.trans (by decide)), (EncResponse.bytes_emitBytes_encRun _ v).trans hrun,
    EncResponse.emitBytes_encErr _ _, hvalue⟩

/-- The class fields of a response are wide enough for every row. -/
theorem EncResponse.ofLcl_toNat (v : Value) :
    (EncResponse.ofLcl (lcl v)).lcClass.toNat = (lcl v).lengthClass ∧
    (EncResponse.ofLcl (lcl v)).lcD.toNat = (lcl v).dataBits ∧
    (EncResponse.ofLcl (lcl v)).lcG.toNat = (lcl v).byteCount ∧
    (EncResponse.ofLcl (lcl v)).lcPad.toNat = (lcl v).padding := by
  obtain ⟨-, hrow⟩ | ⟨-, -, hrow⟩ | ⟨-, -, hrow⟩ | ⟨-, hrow⟩ := lcl_cases v <;> rw [hrow] <;> decide

theorem EncResponse.emitBytes_encLen_toNat (row : LclRow) {bytes : List Byte} (h : bytes.length ≤ 3) :
    (EncResponse.emitBytes row bytes).encLen.toNat = bytes.length :=
  (BitVec.toNat_ofNat _ _).trans (Nat.mod_eq_of_lt (Nat.lt_succ_of_le h))

/-- Settles O12: lanes past the run's length get the default byte. -/
theorem encAnswerFillsLanesInOrder : Obligations.EncAnswerFillsLanesInOrder := by
  intro v s h
  obtain ⟨hclass, hbits, hcount, hpad⟩ := EncResponse.ofLcl_toNat v
  have hlen : (EncResponse.emitBytes (lcl v) (encRun v)).encLen.toNat = (encRun v).length :=
    EncResponse.emitBytes_encLen_toNat _ (encRun_length_le v)
  have hbytes := EncResponse.bytes_emitBytes_encRun (lcl v) v
  refine ⟨_, exec_enc_of_lt_capacity s h, hclass, hbits, hcount, hpad, hlen.trans (encRun_length v), hbytes, ?_,
    fun hone => ?_, fun htwo => ?_, EncResponse.emitBytes_encErr _ _⟩
  · rw [hbytes, hlen]
  · exact List.getD_eq_default _ _ (hlen ▸ hone)
  · exact List.getD_eq_default _ _ (hlen ▸ htwo)

/-! ### The value a RUN row spells -/

/-- The value the fields of a RUN row spell; no other row spells one. -/
def runValue : Instr → Option Value
  | .run1 a => some (run1Value a)
  | .run2 a b => some (run2Value a b)
  | .run3 a b c => some (run3Value a b c)
  | .run4 a b c => some (run4Value a b c)
  | _ => none

theorem run1Value_toNat (a : BitVec 7) : (run1Value a).toNat = a.toNat := BitVec.toNat_setWidth_of_le (by decide)

theorem run2Value_toNat (a : BitVec 4) (b : BitVec 7) : (run2Value a b).toNat = (a ++ b).toNat :=
  BitVec.toNat_setWidth_of_le (by decide)

theorem run3Value_toNat (a : BitVec 2) (b c : BitVec 7) : (run3Value a b c).toNat = (a ++ b ++ c).toNat :=
  BitVec.toNat_setWidth_of_le (by decide)

theorem run4Value_toNat (a b c : BitVec 7) : (run4Value a b c).toNat = (a ++ b ++ c).toNat :=
  BitVec.toNat_setWidth_of_le (by decide)

/-- The slices of two fields written side by side and zero-extended are the fields. -/
theorem slices_of_twoFields {n : Nat} (a : BitVec n) (b : Group) (hn : 7 + n ≤ 32) :
    ((a ++ b).setWidth 32 : Value).extractLsb' 7 n = a ∧ ((a ++ b).setWidth 32 : Value).extractLsb' 0 7 = b := by
  rw [BitVec.extractLsb'_setWidth_of_le hn, BitVec.extractLsb'_setWidth_of_le (by omega)]
  exact ⟨BitVec.extractLsb'_append_eq_left, BitVec.extractLsb'_append_eq_right⟩

theorem slices_of_threeFields {n : Nat} (a : BitVec n) (b c : Group) (hn : 14 + n ≤ 32) :
    ((a ++ b ++ c).setWidth 32 : Value).extractLsb' 14 n = a ∧
    ((a ++ b ++ c).setWidth 32 : Value).extractLsb' 7 7 = b ∧
    ((a ++ b ++ c).setWidth 32 : Value).extractLsb' 0 7 = c := by
  rw [BitVec.extractLsb'_setWidth_of_le hn, BitVec.extractLsb'_setWidth_of_le (by omega),
    BitVec.extractLsb'_setWidth_of_le (by omega)]
  refine ⟨?_, ?_, BitVec.extractLsb'_append_eq_right⟩
  · rw [BitVec.extractLsb'_append_eq_of_le (by decide)]
    exact BitVec.extractLsb'_append_eq_left
  · rw [BitVec.extractLsb'_append_eq_of_le (by decide)]
    exact BitVec.extractLsb'_append_eq_right

theorem encRun_run1Value (a : BitVec 7) : encRun (run1Value a) = [makeByte false a] := by
  have hlt : (run1Value a).toNat < 0x80 := (run1Value_toNat a).trans_lt a.isLt
  have hfits : (run1Value a).toNat < 2 ^ (7 * 1) := hlt
  have hslice : (run1Value a).extractLsb' 0 7 = a :=
    (BitVec.extractLsb'_setWidth_of_le (by decide)).trans BitVec.extractLsb'_eq_self
  rw [encRun_of_byteCount_one _ (by rw [lcl_of_lt_classTwo hlt]), extract_eq_extractLsb' 0 hfits]
  exact congrArg (fun g => [makeByte false g]) hslice

theorem encRun_run2Value {a : BitVec 4} {b : BitVec 7} (h : 0x80 ≤ (run2Value a b).toNat) :
    encRun (run2Value a b) = [makeByte true (0b000#3 ++ a), makeByte false b] := by
  have hlt : (run2Value a b).toNat < 0x800 := (run2Value_toNat a b).trans_lt (a ++ b).isLt
  obtain ⟨ha, hb⟩ := slices_of_twoFields a b (by decide)
  rw [encRun_of_classTwo h hlt, run2Value, ha, hb, BitVec.append_assoc]
  rfl

theorem encRun_run3Value {a : BitVec 2} {b c : BitVec 7} (h : 0x800 ≤ (run3Value a b c).toNat) :
    encRun (run3Value a b c) = [makeByte true (0b00000#5 ++ a), makeByte true b, makeByte false c] := by
  have hlt : (run3Value a b c).toNat < 0x10000 := (run3Value_toNat a b c).trans_lt (a ++ b ++ c).isLt
  obtain ⟨ha, hb, hc⟩ := slices_of_threeFields a b c (by decide)
  rw [encRun_of_classThree h hlt, run3Value, ha, hb, hc, BitVec.append_assoc]
  rfl

theorem encRun_run4Value {a b c : BitVec 7} (h : 0x10000 ≤ (run4Value a b c).toNat) :
    encRun (run4Value a b c) = [makeByte true a, makeByte true b, makeByte false c] := by
  have hlt : (run4Value a b c).toNat < 0x200000 := (run4Value_toNat a b c).trans_lt (a ++ b ++ c).isLt
  obtain ⟨ha, hb, hc⟩ := slices_of_threeFields a b c (by decide)
  rw [encRun_of_threeGroups (le_trans (by decide) h) hlt, run4Value, ha, hb, hc]
  rfl

theorem runValue_lt {i : Instr} {v : Value} (h : runValue i = some v) : v.toNat < 0x200000 := by
  cases i with
  | run1 a => cases h; exact ((run1Value_toNat a).trans_lt a.isLt).trans (by decide)
  | run2 a b => cases h; exact ((run2Value_toNat a b).trans_lt (a ++ b).isLt).trans (by decide)
  | run3 a b c => cases h; exact ((run3Value_toNat a b c).trans_lt (a ++ b ++ c).isLt).trans (by decide)
  | run4 a b c => cases h; exact (run4Value_toNat a b c).trans_lt (a ++ b ++ c).isLt
  | kimCont | kimTerm | classify | enc | decByte | decEnd | decClear => exact nomatch h

/-- The first byte of RUN2 and of RUN3, as a pattern of the table and as a flag before a padded group. -/
theorem makeByte_run2First (a : BitVec 4) : makeByte true (0b000#3 ++ a) = 0b1000#4 ++ a := by
  revert a; decide

theorem makeByte_run3First (a : BitVec 2) : makeByte true (0b00000#5 ++ a) = 0b100000#6 ++ a := by
  revert a; decide

/-- A row's form is well-formed when the value reaches the row's class; then its word is ENC's run. -/
theorem encode_of_runValue {i : Instr} {v : Value} (h : runValue i = some v) (hwf : i.wellFormed = true) :
    encode i = .run (encRun v) := by
  cases i with
  | run1 a => cases h; rw [encRun_run1Value]; rfl
  | run2 a b =>
    cases h
    have hclass : 0x80 ≤ (run2Value a b).toNat := run2Value_toNat a b ▸ of_decide_eq_true hwf
    rw [encRun_run2Value hclass, makeByte_run2First]
    rfl
  | run3 a b c =>
    cases h
    have hclass : 0x800 ≤ (run3Value a b c).toNat := run3Value_toNat a b c ▸ of_decide_eq_true hwf
    rw [encRun_run3Value hclass, makeByte_run3First]
    rfl
  | run4 a b c =>
    cases h
    have hclass : 0x10000 ≤ (run4Value a b c).toNat := run4Value_toNat a b c ▸ of_decide_eq_true hwf
    rw [encRun_run4Value hclass]
    rfl
  | kimCont | kimTerm | classify | enc | decByte | decEnd | decClear => exact nomatch h

theorem exists_runValue_of_encode {i : Instr} {bytes : List Byte} (h : encode i = .run bytes) :
    ∃ v, runValue i = some v := by
  cases i with
  | run1 | run2 | run3 | run4 => exact ⟨_, rfl⟩
  | kimCont | kimTerm | classify | enc | decByte | decEnd | decClear => exact nomatch h

/-- A form's answer is ENC's, as long as the form's bytes are the run of the values of its class. -/
theorem formAnswer_eq_encAnswer {c : Nat} {v : Value} {bytes : List Byte} (hfits : v.toNat < 0x200000)
    (h : (lcl v).lengthClass = c → encRun v = bytes) : formAnswer c v bytes = encAnswer v := by
  unfold formAnswer
  split_ifs with hclass
  · rw [encAnswer_of_lt_capacity hfits, h hclass]
  · rfl

/-- The class tells the least value it holds. -/
theorem le_of_lengthClass {v : Value} :
    ((lcl v).lengthClass = 2 → 0x80 ≤ v.toNat) ∧ ((lcl v).lengthClass = 3 → 0x800 ≤ v.toNat) ∧
    ((lcl v).lengthClass = 4 → 0x10000 ≤ v.toNat) := by
  obtain ⟨-, hrow⟩ | ⟨hge, -, hrow⟩ | ⟨hge, -, hrow⟩ | ⟨hge, hrow⟩ := lcl_cases v <;>
    rw [hrow] <;> simp <;> omega

/-- A RUN row is ENC of the value it spells, whatever its fields. -/
theorem exec_of_runValue {i : Instr} {v : Value} (h : runValue i = some v) (s : State) :
    exec i s = exec (.enc v) s := by
  have hfits := runValue_lt h
  obtain ⟨htwo, hthree, hfour⟩ := le_of_lengthClass (v := v)
  cases i with
  | run1 a =>
    cases h
    exact congrArg (s.encoderOp ·) (formAnswer_eq_encAnswer hfits fun _ => encRun_run1Value a)
  | run2 a b =>
    cases h
    exact congrArg (s.encoderOp ·) (formAnswer_eq_encAnswer hfits fun hclass => encRun_run2Value (htwo hclass))
  | run3 a b c =>
    cases h
    exact congrArg (s.encoderOp ·) (formAnswer_eq_encAnswer hfits fun hclass => encRun_run3Value (hthree hclass))
  | run4 a b c =>
    cases h
    exact congrArg (s.encoderOp ·) (formAnswer_eq_encAnswer hfits fun hclass => encRun_run4Value (hfour hclass))
  | kimCont | kimTerm | classify | enc | decByte | decEnd | decClear => exact nomatch h

/-- Settles O17. -/
theorem runRowsAgreeWithEnc : Obligations.RunRowsAgreeWithEnc := fun s =>
  ⟨fun _ => exec_of_runValue rfl s, fun _ _ => exec_of_runValue rfl s, fun _ _ _ => exec_of_runValue rfl s,
    fun _ _ _ => exec_of_runValue rfl s⟩

/-- Settles O16: the row is ENC of its value, and its word is the value's run. -/
theorem runRowsEmitTheirOwnBytes : Obligations.RunRowsEmitTheirOwnBytes := by
  intro i bytes s hwf hencode
  obtain ⟨v, hv⟩ := exists_runValue_of_encode hencode
  have hbytes : encRun v = bytes := Request.run.inj ((encode_of_runValue hv hwf).symm.trans hencode)
  exact ⟨_, (exec_of_runValue hv s).trans (exec_enc_of_lt_capacity s (runValue_lt hv)),
    (EncResponse.bytes_emitBytes_encRun _ v).trans hbytes, EncResponse.emitBytes_encErr _ _⟩

/-- A value that fits `n` bits is the zero extension of its low `n` bits. -/
theorem setWidth_extractLsb'_of_lt {v : Value} {n : Nat} (h : v.toNat < 2 ^ n) :
    (v.extractLsb' 0 n).setWidth 32 = v := by
  apply BitVec.eq_of_toNat_eq
  rw [BitVec.toNat_setWidth, extractLsb'_toNat_of_lt (by rwa [Nat.zero_add]), Nat.pow_zero, Nat.div_one,
    Nat.mod_eq_of_lt v.isLt]

/-- Slices side by side are one slice, so the fields of a row spell the value they were taken from. -/
theorem run2Value_slices {v : Value} (h : v.toNat < 0x800) :
    run2Value (v.extractLsb' 7 4) (v.extractLsb' 0 7) = v := by
  rw [run2Value, BitVec.extractLsb'_append_extractLsb'_eq_extractLsb' (show 7 = 0 + 7 from rfl)]
  exact setWidth_extractLsb'_of_lt h

theorem run3Value_slices {v : Value} (h : v.toNat < 0x10000) :
    run3Value (v.extractLsb' 14 2) (v.extractLsb' 7 7) (v.extractLsb' 0 7) = v := by
  rw [run3Value, BitVec.extractLsb'_append_extractLsb'_eq_extractLsb' (show 14 = 7 + 7 from rfl),
    BitVec.extractLsb'_append_extractLsb'_eq_extractLsb' (show 7 = 0 + 7 from rfl)]
  exact setWidth_extractLsb'_of_lt h

theorem run4Value_slices {v : Value} (h : v.toNat < 0x200000) :
    run4Value (v.extractLsb' 14 7) (v.extractLsb' 7 7) (v.extractLsb' 0 7) = v := by
  rw [run4Value, BitVec.extractLsb'_append_extractLsb'_eq_extractLsb' (show 14 = 7 + 7 from rfl),
    BitVec.extractLsb'_append_extractLsb'_eq_extractLsb' (show 7 = 0 + 7 from rfl)]
  exact setWidth_extractLsb'_of_lt h

/-- Every value below the capacity is spelled by a well-formed RUN row, the one of its class. -/
theorem exists_run_row {v : Value} (h : v.toNat < 0x200000) :
    ∃ i, runValue i = some v ∧ i.wellFormed = true := by
  rcases lt_or_ge v.toNat 0x80 with hone | hge
  · exact ⟨.run1 (v.extractLsb' 0 7), congrArg some (setWidth_extractLsb'_of_lt hone), rfl⟩
  rcases lt_or_ge v.toNat 0x800 with htwo | hge
  · refine ⟨.run2 _ _, congrArg some (run2Value_slices htwo), decide_eq_true ?_⟩
    rwa [← run2Value_toNat, run2Value_slices htwo]
  rcases lt_or_ge v.toNat 0x10000 with hthree | hge
  · refine ⟨.run3 _ _ _, congrArg some (run3Value_slices hthree), decide_eq_true ?_⟩
    rwa [← run3Value_toNat, run3Value_slices hthree]
  · refine ⟨.run4 _ _ _, congrArg some (run4Value_slices h), decide_eq_true ?_⟩
    rwa [← run4Value_toNat, run4Value_slices h]

/-- Settles O58: the run of a value is the word of the row that spells it, and a row's word is the run of the value it
spells. -/
theorem canonicalRunsAreTheWellFormedRunWords : Obligations.CanonicalRunsAreTheWellFormedRunWords := by
  intro bytes
  constructor
  · rintro ⟨v, hfits, rfl⟩
    obtain ⟨i, hi, hwf⟩ := exists_run_row hfits
    exact ⟨i, encode_of_runValue hi hwf ▸ decode_encode hwf, hwf⟩
  · rintro ⟨i, hdecode, hwf⟩
    have hencode := decodedRequestsEncodeBack _ i hdecode
    obtain ⟨v, hv⟩ := exists_runValue_of_encode hencode
    exact ⟨v, runValue_lt hv, Request.run.inj ((encode_of_runValue hv hwf).symm.trans hencode)⟩

end Sys2Proof.Machine
end

-- ==== EncodeStream ====
section
/-! `EncodeStream` value by value, and its results as the runs of values that fit (R160, R161); from that the statements
about lengths, splitting and injectivity (R169 to R173). -/

namespace Sys2Proof.Machine

/-- A result that comes after `n` positions which gave `p`. -/
def StreamResult.after {α : Type} (p : List α) (n : Nat) : StreamResult α → StreamResult α
  | .ok out => .ok (p ++ out)
  | .err kind pos => .err kind (n + pos)

@[simp] theorem StreamResult.after_ok {α : Type} (p out : List α) (n : Nat) :
    (StreamResult.ok out).after p n = .ok (p ++ out) := rfl

@[simp] theorem StreamResult.after_err {α : Type} (p : List α) (n pos : Nat) (kind : StreamError) :
    (StreamResult.err kind pos).after p n = .err kind (n + pos) := rfl

theorem StreamResult.after_nil_zero {α : Type} (r : StreamResult α) : r.after [] 0 = r := by
  cases r <;> simp

theorem StreamResult.after_after {α : Type} (p q : List α) (m n : Nat) (r : StreamResult α) :
    (r.after p m).after q n = r.after (q ++ p) (n + m) := by
  cases r <;> simp [Nat.add_assoc]

theorem encodeStream_nil : encodeStream [] = .ok [] := rfl

theorem encodeStream_cons_of_lt {v : Value} (h : v.toNat < 0x200000) (vs : List Value) :
    encodeStream (v :: vs) = (encodeStream vs).after (encRun v) 1 := by
  have hfits : decide (Config.capacity ≤ v.toNat) = false := decide_eq_false h.not_ge
  rw [encodeStream, List.findIdx?_cons, hfits, encodeStream]
  cases vs.findIdx? (fun v => decide (Config.capacity ≤ v.toNat)) with
  | none => rfl
  | some k => exact congrArg (StreamResult.err _) (Nat.add_comm k 1)

theorem encodeStream_cons_of_le {v : Value} (h : 0x200000 ≤ v.toNat) (vs : List Value) :
    encodeStream (v :: vs) = .err .outOfRange 0 := by
  have hover : decide (Config.capacity ≤ v.toNat) = true := decide_eq_true h
  rw [encodeStream, List.findIdx?_cons, hover]
  rfl

/-- Values that fit are encoded, and what follows is encoded after them. -/
theorem encodeStream_append_of_fits {vs : List Value} (h : ∀ v ∈ vs, v.toNat < 0x200000) (ws : List Value) :
    encodeStream (vs ++ ws) = (encodeStream ws).after (vs.flatMap encRun) vs.length := by
  induction vs with
  | nil => exact (StreamResult.after_nil_zero _).symm
  | cons v vs ih =>
    obtain ⟨hv, hvs⟩ := List.forall_mem_cons.mp h
    rw [List.cons_append, encodeStream_cons_of_lt hv, ih hvs, StreamResult.after_after, List.flatMap_cons,
      List.length_cons, Nat.add_comm 1]

theorem encodeStream_of_fits {vs : List Value} (h : ∀ v ∈ vs, v.toNat < 0x200000) :
    encodeStream vs = .ok (vs.flatMap encRun) := by
  simpa [encodeStream_nil] using encodeStream_append_of_fits h []

/-- The results are the runs of lists whose values all fit, and no others. -/
theorem encodeStream_eq_ok_iff (vs : List Value) (bs : List Byte) :
    encodeStream vs = .ok bs ↔ (∀ v ∈ vs, v.toNat < 0x200000) ∧ bs = vs.flatMap encRun := by
  constructor
  · intro hok
    have hfits : ∀ v ∈ vs, v.toNat < 0x200000 := by
      by_contra hnot
      push Not at hnot
      have hsome : (vs.findIdx? fun v => decide (Config.capacity ≤ v.toNat)).isSome = true := by
        simpa [List.findIdx?_isSome] using hnot
      obtain ⟨k, hk⟩ := Option.isSome_iff_exists.mp hsome
      rw [encodeStream, hk] at hok
      exact nomatch hok
    rw [encodeStream_of_fits hfits, StreamResult.ok.injEq] at hok
    exact ⟨hfits, hok.symm⟩
  · rintro ⟨hfits, rfl⟩
    exact encodeStream_of_fits hfits

theorem fits_of_legalText {vs : List Value} (h : legalText vs = true) : ∀ v ∈ vs, v.toNat < 0x200000 :=
  fun v hv => lt_of_isScalar (List.all_eq_true.mp h v hv)

/-- Issuing an operation that gives a next state: its response comes first. -/
theorem issue_cons_of_next {i : Instr} {s s' : State} {r : Response} (hexec : exec i s = .next s')
    (hrsp : s'.rsp = some r) (is : List Instr) :
    issue (i :: is) s = ((issue is s').1, r :: (issue is s').2) := by
  rw [issue, hexec]
  simp [hrsp]

/-- The host reads what `EncodeStream` gives, after what it has read already. -/
theorem readEncode_issue (vs : List Value) (s : State) (k : Nat) (out : List Byte) :
    readEncode k out (issue (encStreamOps vs) s).2 = (encodeStream vs).after out k := by
  induction vs generalizing s k out with
  | nil => exact congrArg StreamResult.ok (List.append_nil out).symm
  | cons v vs ih =>
    rw [encStreamOps, List.map_cons, ← encStreamOps, issue_cons_of_next (exec_enc v s) rfl, readEncode]
    rcases lt_or_ge v.toNat 0x200000 with hfits | hover
    · rw [encAnswer_of_lt_capacity hfits, if_pos (EncResponse.emitBytes_encErr _ _),
        EncResponse.bytes_emitBytes_encRun, ih, encodeStream_cons_of_lt hfits, StreamResult.after_after]
    · rw [encAnswer_of_capacity_le hover, if_neg (by decide), encodeStream_cons_of_le hover]
      rfl

theorem issue_encStreamOps_bgd (vs : List Value) (s : State) : (issue (encStreamOps vs) s).1.bgd = s.bgd := by
  induction vs generalizing s with
  | nil => rfl
  | cons v vs ih =>
    rw [encStreamOps, List.map_cons, ← encStreamOps, issue_cons_of_next (exec_enc v s) rfl, ih]

/-- Settles O44: values that fit, the first that does not, texts, and what the host reads. -/
theorem hostObtainsEncodeStream : Obligations.HostObtainsEncodeStream := by
  refine ⟨?fits, ?first, ?texts, ?host⟩
  case fits =>
    intro vs h
    rw [encodeStream_of_fits h, List.flatMap_def]
  case first =>
    intro fits v rest hfits hover
    rw [encodeStream_append_of_fits hfits, encodeStream_cons_of_le hover]
    rfl
  case texts => exact fun vs h => ⟨_, encodeStream_of_fits (fits_of_legalText h)⟩
  case host =>
    intro vs s
    rw [readEncode_issue, StreamResult.after_nil_zero]
    exact ⟨rfl, issue_encStreamOps_bgd vs s⟩

/-- Settles O48. -/
theorem encodeStreamConcatenates : Obligations.EncodeStreamConcatenates := by
  intro a b x y ha hb
  obtain ⟨hfits, rfl⟩ := (encodeStream_eq_ok_iff a x).mp ha
  rw [encodeStream_append_of_fits hfits, hb, StreamResult.after_ok]

/-- The byte count falls short of the class in class 4 only, and there by one. -/
theorem byteCount_add_classFour (v : Value) :
    (lcl v).byteCount + (if (lcl v).lengthClass = 4 then 1 else 0) = (lcl v).lengthClass := by
  obtain ⟨-, hrow⟩ | ⟨-, -, hrow⟩ | ⟨-, -, hrow⟩ | ⟨-, hrow⟩ := lcl_cases v <;> rw [hrow] <;> rfl

/-- Settles O53. -/
theorem encodedLengthIsSumOfByteCounts : Obligations.EncodedLengthIsSumOfByteCounts := by
  intro vs bs hok
  obtain ⟨-, rfl⟩ := (encodeStream_eq_ok_iff vs bs).mp hok
  have hlength : (vs.flatMap encRun).length = (vs.map fun v => (lcl v).byteCount).sum := by
    simp only [List.length_flatMap, encRun_length]
  refine ⟨hlength, ?_⟩
  rw [hlength]
  clear hlength hok
  induction vs with
  | nil => rfl
  | cons v vs ih =>
    have hv := byteCount_add_classFour v
    simp only [List.map_cons, List.sum_cons, List.countP_cons, decide_eq_true_eq]
    omega

/-! ### Runs -/

theorem encRuns_eq_runOfs (vs : List Value) :
    vs.flatMap encRun = (vs.map runParts).flatMap fun r => runOf r.1 r.2 := by
  simp only [List.flatMap_map, ← encRun_eq_runOf]

theorem makeByte_inj {f f' : Bool} {g g' : Group} (h : makeByte f g = makeByte f' g') : f = f' ∧ g = g' := by
  constructor
  · simpa using congrArg byteFlag h
  · simpa using congrArg byteGroup h

/-- The first byte with flag 0 ends the first run, so what follows the run is told apart from it. -/
theorem runOf_append_inj {gs hs : List Group} {g h : Group} {x y : List Byte}
    (heq : runOf gs g ++ x = runOf hs h ++ y) : gs = hs ∧ g = h ∧ x = y := by
  induction gs generalizing hs with
  | nil =>
    cases hs with
    | nil =>
      obtain ⟨hbyte, hrest⟩ := List.cons.inj heq
      exact ⟨rfl, (makeByte_inj hbyte).2, hrest⟩
    | cons k hs => exact nomatch (makeByte_inj (List.cons.inj heq).1).1
  | cons k gs ih =>
    cases hs with
    | nil => exact nomatch (makeByte_inj (List.cons.inj heq).1).1
    | cons l hs =>
      obtain ⟨hbyte, hrest⟩ := List.cons.inj heq
      obtain ⟨rfl, hlast, htail⟩ := ih hrest
      exact ⟨by rw [(makeByte_inj hbyte).2], hlast, htail⟩

theorem runOf_ne_nil (gs : List Group) (g : Group) : runOf gs g ≠ [] := by
  simp [runOf]

theorem runs_unique (p q : List (List Group × Group))
    (heq : (p.flatMap fun r => runOf r.1 r.2) = q.flatMap fun r => runOf r.1 r.2) : p = q := by
  induction p generalizing q with
  | nil =>
    cases q with
    | nil => rfl
    | cons r q => exact absurd (List.append_eq_nil_iff.mp heq.symm).1 (runOf_ne_nil _ _)
  | cons r p ih =>
    cases q with
    | nil => exact absurd (List.append_eq_nil_iff.mp heq).1 (runOf_ne_nil _ _)
    | cons r' q =>
      obtain ⟨hgs, hg, hrest⟩ := runOf_append_inj heq
      rw [Prod.ext hgs hg, ih q hrest]

/-- Runs back to back end with the last byte of the last run, whose flag is 0. -/
theorem wellFormedBytes_runs (runs : List (List Group × Group)) :
    wellFormedBytes (runs.flatMap fun r => runOf r.1 r.2) = true := by
  induction runs using List.reverseRecOn with
  | nil => rfl
  | append_singleton runs r =>
    have hlast : ((runs ++ [r]).flatMap fun r => runOf r.1 r.2).getLast? = some (makeByte false r.2) := by
      simp [runOf, ← List.append_assoc]
    rw [wellFormedBytes, hlast]
    simp

/-- Settles O54: the runs are those of the values. -/
theorem encodedStreamSplitsIntoRunsOneWay : Obligations.EncodedStreamSplitsIntoRunsOneWay := by
  refine ⟨fun vs bs hok => ?_, runs_unique⟩
  obtain ⟨-, rfl⟩ := (encodeStream_eq_ok_iff vs bs).mp hok
  rw [encRuns_eq_runOfs]
  exact ⟨wellFormedBytes_runs _, vs.map runParts, List.length_map _, rfl⟩

/-- Values below the capacity are read back from their groups. -/
theorem map_toNat_eq_of_fits {vs : List Value} (h : ∀ v ∈ vs, v.toNat < 0x200000) :
    vs.map BitVec.toNat = (vs.map runParts).map fun r => naturalValue 0 (r.1 ++ [r.2]) := by
  rw [List.map_map]
  exact List.map_congr_left fun v hv => (naturalValue_runParts (h v hv)).symm

/-- Settles O52: the bytes split into runs in one way, and a run has one value. The decoder drops leading zero
groups. -/
theorem encodeStreamIsInjective : Obligations.EncodeStreamIsInjective := by
  refine ⟨fun a b x ha hb => ?_, by decide⟩
  obtain ⟨hfitsA, rfl⟩ := (encodeStream_eq_ok_iff a x).mp ha
  obtain ⟨hfitsB, heq⟩ := (encodeStream_eq_ok_iff b _).mp hb
  rw [encRuns_eq_runOfs, encRuns_eq_runOfs] at heq
  have hruns : a.map runParts = b.map runParts := runs_unique _ _ heq
  have hvalues : a.map BitVec.toNat = b.map BitVec.toNat := by
    rw [map_toNat_eq_of_fits hfitsA, map_toNat_eq_of_fits hfitsB, hruns]
  exact List.map_injective_iff.mpr (fun _ _ => BitVec.eq_of_toNat_eq) hvalues

end Sys2Proof.Machine
end

-- ==== DecodeStream ====
section
/-! The loop of R162 byte by byte, what its result is by the last byte, that it does not depend on where it starts, and
what it does with one stream after another (R162 to R164, R169, R174). -/

namespace Sys2Proof.Machine

theorem decodeFrom_nil_of_open {d : Bgd} (herr : d.err = 0) (hopen : d.runOpen = true) (out : List Acc) :
    decodeFrom d out [] = ((d.raiseError Config.errTruncated).1, .err .truncated d.off) := by
  simp [decodeFrom, Bgd.unlessError_of_noError _ _ herr, Bgd.endStream, hopen]

theorem decodeFrom_nil_of_closed {d : Bgd} (herr : d.err = 0) (hclosed : d.runOpen = false) (out : List Acc) :
    decodeFrom d out [] = (Bgd.initial, .ok out) := by
  simp [decodeFrom, Bgd.unlessError_of_noError _ _ herr, Bgd.endStream, hclosed]

theorem decodeFrom_cons_of_flag {d : Bgd} {b : Byte} (herr : d.err = 0) (hflag : byteFlag b = true)
    (out : List Acc) (bs : List Byte) :
    decodeFrom d out (b :: bs) = decodeFrom (d.continueRun (byteGroup b)).1 out bs := by
  simp [decodeFrom, Bgd.unlessError_of_noError _ _ herr, Bgd.consumeByte_of_flag b d hflag]

theorem decodeFrom_cons_of_accepts {d : Bgd} {b : Byte} (herr : d.err = 0) (hflag : byteFlag b = false)
    (h : d.accepts b = true) (out : List Acc) (bs : List Byte) :
    decodeFrom d out (b :: bs) = decodeFrom d.runEnded (out ++ [(pack d.acc d.ovf (byteGroup b)).1]) bs := by
  simp [decodeFrom, Bgd.unlessError_of_noError _ _ herr, Bgd.consumeByte_of_accepts hflag h]

theorem decodeFrom_cons_of_rejects {d : Bgd} {b : Byte} (herr : d.err = 0) (hflag : byteFlag b = false)
    (h : d.accepts b = false) (out : List Acc) (bs : List Byte) :
    decodeFrom d out (b :: bs) =
      ((d.raiseError Config.errInvalidScalarValue).1, .err .invalidScalarValue d.off) := by
  simp [decodeFrom, Bgd.unlessError_of_noError _ _ herr, Bgd.consumeByte_of_rejects hflag h]

/-- Induction over a stream that a decoder reads without error: at each byte the run goes on, ends, or fails. -/
theorem stream_induction {P : Bgd → List Acc → List Byte → Prop}
    (nil : ∀ d out, d.err = 0 → P d out [])
    (goesOn : ∀ d out b bs, d.err = 0 → byteFlag b = true →
      P (d.continueRun (byteGroup b)).1 out bs → P d out (b :: bs))
    (ends : ∀ d out b bs, d.err = 0 → byteFlag b = false → d.accepts b = true →
      P d.runEnded (out ++ [(pack d.acc d.ovf (byteGroup b)).1]) bs → P d out (b :: bs))
    (fails : ∀ d out b bs, d.err = 0 → byteFlag b = false → d.accepts b = false → P d out (b :: bs))
    (d : Bgd) (out : List Acc) (bs : List Byte) (herr : d.err = 0) : P d out bs := by
  induction bs generalizing d out with
  | nil => exact nil d out herr
  | cons b bs ih =>
    cases hflag : byteFlag b with
    | true => exact goesOn d out b bs herr hflag (ih _ _ herr)
    | false =>
      cases h : d.accepts b with
      | true => exact ends d out b bs herr hflag h (ih _ _ herr)
      | false => exact fails d out b bs herr hflag h

/-! ### The three results -/

/-- Whether a stream ends inside a run, when it starts inside one or not: its last byte tells. -/
def endsOpen (openBefore : Bool) (bs : List Byte) : Bool :=
  (bs.getLast?.map byteFlag).getD openBefore

theorem endsOpen_cons (o : Bool) (b : Byte) (bs : List Byte) : endsOpen o (b :: bs) = endsOpen (byteFlag b) bs := by
  rw [endsOpen, endsOpen, List.getLast?_cons]
  cases bs.getLast? <;> rfl

theorem wellFormedBytes_eq (bs : List Byte) : wellFormedBytes bs = !endsOpen false bs := by
  unfold wellFormedBytes endsOpen
  cases bs.getLast? <;> rfl

/-- What the loop can give from state `d`: values and the initial state where the stream ends between runs,
`Truncated` at its length where it ends inside one, or `InvalidScalarValue` at one of its bytes. -/
inductive StreamOutcome (d : Bgd) (bs : List Byte) : Bgd × StreamResult Acc → Prop where
  | complete (values : List Acc) (hend : endsOpen d.runOpen bs = false) :
      StreamOutcome d bs (Bgd.initial, .ok values)
  | truncated (d' : Bgd) (hend : endsOpen d.runOpen bs = true) (herr : d'.err = Config.errTruncated)
      (hoff : d'.errOff = d.off + bs.length) :
      StreamOutcome d bs (d', .err .truncated (d.off + bs.length))
  | invalid (d' : Bgd) (k : Nat) (hk : k < d.off + bs.length) (herr : d'.err = Config.errInvalidScalarValue)
      (hoff : d'.errOff = k) :
      StreamOutcome d bs (d', .err .invalidScalarValue k)

/-- One byte that raises no error moves the outcome of the rest to the outcome of the whole. -/
theorem StreamOutcome.cons {d d' : Bgd} {b : Byte} {bs : List Byte} {r : Bgd × StreamResult Acc}
    (h : StreamOutcome d' bs r) (hopen : d'.runOpen = byteFlag b) (hoff : d'.off = d.off + 1) :
    StreamOutcome d (b :: bs) r := by
  have hend : endsOpen d.runOpen (b :: bs) = endsOpen d'.runOpen bs := by rw [endsOpen_cons, hopen]
  have hlen : d'.off + bs.length = d.off + (b :: bs).length := by
    rw [hoff, List.length_cons]
    omega
  cases h with
  | complete values h => exact .complete values (hend.trans h)
  | truncated e h herr herrOff => rw [hlen] at herrOff ⊢; exact .truncated e (hend.trans h) herr herrOff
  | invalid e k hk herr herrOff => exact .invalid e k (hlen ▸ hk) herr herrOff

theorem decodeFrom_outcome (d : Bgd) (out : List Acc) (bs : List Byte) (herr : d.err = 0) :
    StreamOutcome d bs (decodeFrom d out bs) := by
  refine stream_induction (P := fun d out bs => StreamOutcome d bs (decodeFrom d out bs))
    ?nil ?goesOn ?ends ?fails d out bs herr
  case nil =>
    intro d out herr
    cases hopen : d.runOpen with
    | true =>
      rw [decodeFrom_nil_of_open herr hopen]
      exact .truncated _ hopen rfl rfl
    | false =>
      rw [decodeFrom_nil_of_closed herr hopen]
      exact .complete out hopen
  case goesOn =>
    intro d out b bs herr hflag ih
    rw [decodeFrom_cons_of_flag herr hflag]
    exact ih.cons hflag.symm rfl
  case ends =>
    intro d out b bs herr hflag h ih
    rw [decodeFrom_cons_of_accepts herr hflag h]
    exact ih.cons hflag.symm rfl
  case fails =>
    intro d out b bs herr hflag h
    rw [decodeFrom_cons_of_rejects herr hflag h]
    exact .invalid _ _ (by simp) rfl rfl

theorem decodeStream_outcome (bs : List Byte) : StreamOutcome Bgd.initial bs (decodeFrom Bgd.initial [] bs) :=
  decodeFrom_outcome _ _ _ rfl

/-- Settles O51: the three outcomes. -/
theorem truncatedExactlyOnOpenEnd : Obligations.TruncatedExactlyOnOpenEnd := by
  intro bs
  rw [wellFormedBytes_eq, decodeStream]
  generalize hresult : decodeFrom Bgd.initial [] bs = result
  have houtcome : StreamOutcome Bgd.initial bs result := hresult ▸ decodeStream_outcome bs
  cases houtcome with
  | complete values hend =>
    rw [Bgd.initial_runOpen] at hend
    simp [hend]
  | truncated d' hend =>
    rw [Bgd.initial_runOpen] at hend
    simp [hend]
  | invalid d' k hk =>
    rw [Bgd.initial_off, Nat.zero_add] at hk
    simp [hk]

/-! ### Where a stream starts does not matter -/

/-- The decoder after `n` more bytes of the stream. -/
def Bgd.advance (n : Nat) (d : Bgd) : Bgd :=
  { d with off := n + d.off }

/-- Counting on, and collecting behind what is collected, changes neither which bytes fail nor what is emitted. -/
theorem decodeFrom_advance (n : Nat) (p : List Acc) (d : Bgd) (out : List Acc) (bs : List Byte) (herr : d.err = 0) :
    (decodeFrom (d.advance n) (p ++ out) bs).2 = (decodeFrom d out bs).2.after p n := by
  refine stream_induction
    (P := fun d out bs => (decodeFrom (d.advance n) (p ++ out) bs).2 = (decodeFrom d out bs).2.after p n)
    ?nil ?goesOn ?ends ?fails d out bs herr
  case nil =>
    intro d out herr
    have herr' : (d.advance n).err = 0 := herr
    cases hopen : d.runOpen with
    | true => rw [decodeFrom_nil_of_open herr hopen, decodeFrom_nil_of_open herr' hopen]; rfl
    | false => rw [decodeFrom_nil_of_closed herr hopen, decodeFrom_nil_of_closed herr' hopen]; rfl
  case goesOn =>
    intro d out b bs herr hflag ih
    have herr' : (d.advance n).err = 0 := herr
    rw [decodeFrom_cons_of_flag herr hflag, decodeFrom_cons_of_flag herr' hflag, ← ih]
    rfl
  case ends =>
    intro d out b bs herr hflag h ih
    have herr' : (d.advance n).err = 0 := herr
    have h' : (d.advance n).accepts b = true := h
    rw [decodeFrom_cons_of_accepts herr hflag h, decodeFrom_cons_of_accepts herr' hflag h', ← ih, List.append_assoc]
    rfl
  case fails =>
    intro d out b bs herr hflag h
    have herr' : (d.advance n).err = 0 := herr
    have h' : (d.advance n).accepts b = false := h
    rw [decodeFrom_cons_of_rejects herr hflag h, decodeFrom_cons_of_rejects herr' hflag h']
    rfl

/-- The decoder between two runs, `n` bytes into the stream. -/
def Bgd.idleAt (n : Nat) : Bgd :=
  Bgd.initial.advance n

theorem Bgd.eq_idleAt {d : Bgd} (hinv : d.Inv) (herr : d.err = 0) (hclosed : d.runOpen = false) :
    d = Bgd.idleAt d.off := by
  obtain ⟨hacc, hovf⟩ := hinv.idleIsClear hclosed
  have herrOff := hinv.offsetOnlyWithError herr
  obtain ⟨acc, ovf, runOpen, off, err, errOff⟩ := d
  subst hacc hovf hclosed herr herrOff
  rfl

/-- After a stream that decodes, the decoder stands between two runs. -/
theorem decodeFrom_append_of_ok {x : List Byte} {p : List Acc} (y : List Byte) {d : Bgd} {out : List Acc}
    (herr : d.err = 0) (hinv : d.Inv) (hok : (decodeFrom d out x).2 = .ok p) :
    decodeFrom d out (x ++ y) = decodeFrom (Bgd.idleAt (d.off + x.length)) p y := by
  revert hinv hok
  refine stream_induction (P := fun d out x => d.Inv → (decodeFrom d out x).2 = .ok p →
    decodeFrom d out (x ++ y) = decodeFrom (Bgd.idleAt (d.off + x.length)) p y)
    ?nil ?goesOn ?ends ?fails d out x herr
  case nil =>
    intro d out herr hinv hok
    cases hopen : d.runOpen with
    | true =>
      rw [decodeFrom_nil_of_open herr hopen] at hok
      exact nomatch hok
    | false =>
      rw [decodeFrom_nil_of_closed herr hopen, StreamResult.ok.injEq] at hok
      rw [hok, List.nil_append, List.length_nil, Nat.add_zero, ← Bgd.eq_idleAt hinv herr hopen]
  case goesOn =>
    intro d out b bs herr hflag ih hinv hok
    rw [decodeFrom_cons_of_flag herr hflag] at hok
    rw [List.cons_append, decodeFrom_cons_of_flag herr hflag, ih (hinv.continueRun herr _) hok,
      Bgd.continueRun_off, List.length_cons, Nat.add_assoc, Nat.add_comm 1]
  case ends =>
    intro d out b bs herr hflag h ih hinv hok
    rw [decodeFrom_cons_of_accepts herr hflag h] at hok
    rw [List.cons_append, decodeFrom_cons_of_accepts herr hflag h, ih (hinv.runEnded herr) hok,
      Bgd.runEnded_off, List.length_cons, Nat.add_assoc, Nat.add_comm 1]
  case fails =>
    intro d out b bs herr hflag h hinv hok
    rw [decodeFrom_cons_of_rejects herr hflag h] at hok
    exact nomatch hok

/-- A stream after one that decodes is decoded as it is alone, its values and offsets counted on (R169). -/
theorem decodeStream_append_of_ok {x : List Byte} {p : List Acc} (h : decodeStream x = .ok p) (y : List Byte) :
    decodeStream (x ++ y) = (decodeStream y).after p x.length := by
  have hstart : decodeFrom Bgd.initial [] (x ++ y) = decodeFrom (Bgd.idleAt (0 + x.length)) (p ++ []) y := by
    rw [decodeFrom_append_of_ok y rfl Bgd.inv_initial h, List.append_nil]
    rfl
  rw [decodeStream, hstart, Nat.zero_add]
  exact decodeFrom_advance x.length p Bgd.initial [] y rfl

/-- Settles O49: the two kinds of result of the second stream. -/
theorem decodeStreamConcatenates : Obligations.DecodeStreamConcatenates := by
  intro x y p hx
  refine ⟨fun q hy => ?_, fun kind j hy => ?_⟩
  · rw [decodeStream_append_of_ok hx, hy, StreamResult.after_ok]
  · rw [decodeStream_append_of_ok hx, hy, StreamResult.after_err]

theorem decodeFrom_append_of_invalid {x : List Byte} {k : Nat} (y : List Byte) {d : Bgd} {out : List Acc}
    (herr : d.err = 0) (hbad : (decodeFrom d out x).2 = .err .invalidScalarValue k) :
    (decodeFrom d out (x ++ y)).2 = .err .invalidScalarValue k := by
  revert hbad
  refine stream_induction (P := fun d out x => (decodeFrom d out x).2 = .err .invalidScalarValue k →
    (decodeFrom d out (x ++ y)).2 = .err .invalidScalarValue k) ?nil ?goesOn ?ends ?fails d out x herr
  case nil =>
    intro d out herr hbad
    cases hopen : d.runOpen with
    | true =>
      rw [decodeFrom_nil_of_open herr hopen] at hbad
      exact nomatch hbad
    | false =>
      rw [decodeFrom_nil_of_closed herr hopen] at hbad
      exact nomatch hbad
  case goesOn =>
    intro d out b bs herr hflag ih
    rw [List.cons_append, decodeFrom_cons_of_flag herr hflag, decodeFrom_cons_of_flag herr hflag]
    exact ih
  case ends =>
    intro d out b bs herr hflag h ih
    rw [List.cons_append, decodeFrom_cons_of_accepts herr hflag h, decodeFrom_cons_of_accepts herr hflag h]
    exact ih
  case fails =>
    intro d out b bs herr hflag h hbad
    rwa [List.cons_append, decodeFrom_cons_of_rejects herr hflag h,
      ← decodeFrom_cons_of_rejects herr hflag h out bs]

/-- Settles O50: the failing byte is one of the stream's, and the loop stops at it. -/
theorem firstInvalidRunDecidesTheStream : Obligations.FirstInvalidRunDecidesTheStream := by
  intro x y k hbad
  refine ⟨?_, decodeFrom_append_of_invalid y rfl hbad⟩
  rw [decodeStream] at hbad
  generalize hresult : decodeFrom Bgd.initial [] x = result at hbad
  have houtcome : StreamOutcome Bgd.initial x result := hresult ▸ decodeStream_outcome x
  cases houtcome with
  | complete values hend => exact nomatch hbad
  | truncated d' hend => exact nomatch hbad
  | invalid d' k' hk =>
    cases hbad
    simpa using hk

/-! ### One run -/

/-- The registers after the groups of a run that goes on. -/
def Bgd.afterGroups (gs : List Group) (d : Bgd) : Bgd :=
  gs.foldl (fun d g => (d.continueRun g).1) d

theorem Bgd.afterGroups_cons (g : Group) (gs : List Group) (d : Bgd) :
    d.afterGroups (g :: gs) = (d.continueRun g).1.afterGroups gs := rfl

theorem Bgd.afterGroups_accumulator (gs : List Group) (d : Bgd) :
    ((d.afterGroups gs).acc, (d.afterGroups gs).ovf) = packAll (d.acc, d.ovf) gs := by
  induction gs generalizing d with
  | nil => rfl
  | cons g gs ih => exact ih (d.continueRun g).1

theorem Bgd.afterGroups_err (gs : List Group) (d : Bgd) : (d.afterGroups gs).err = d.err := by
  induction gs generalizing d with
  | nil => rfl
  | cons g gs ih => exact ih (d.continueRun g).1

theorem Bgd.afterGroups_off (gs : List Group) (d : Bgd) : (d.afterGroups gs).off = d.off + gs.length := by
  induction gs generalizing d with
  | nil => rfl
  | cons g gs ih =>
    rw [Bgd.afterGroups_cons, ih, Bgd.continueRun_off, List.length_cons, Nat.add_assoc, Nat.add_comm 1]

theorem decodeFrom_continuations (gs : List Group) (rest : List Byte) {d : Bgd} (herr : d.err = 0) (out : List Acc) :
    decodeFrom d out (gs.map (makeByte true) ++ rest) = decodeFrom (d.afterGroups gs) out rest := by
  induction gs generalizing d with
  | nil => rfl
  | cons g gs ih =>
    rw [List.map_cons, List.cons_append, decodeFrom_cons_of_flag herr (byteFlag_makeByte true g),
      byteGroup_makeByte, ih (d := (d.continueRun g).1) herr, Bgd.afterGroups_cons]

/-- What the last group of a run completes carries the run's unbounded value. -/
theorem carries_run (gs : List Group) (g : Group) :
    Carries (pack (Bgd.initial.afterGroups gs).acc (Bgd.initial.afterGroups gs).ovf g)
      (naturalValue 0 (gs ++ [g])) := by
  have hgroups : ((Bgd.initial.afterGroups gs).acc, (Bgd.initial.afterGroups gs).ovf) = packAll (0, false) gs :=
    Bgd.afterGroups_accumulator gs Bgd.initial
  have hcarries := carries_zero.packAll (gs ++ [g])
  rwa [packAll_append_singleton, ← hgroups] at hcarries

theorem accepts_run (gs : List Group) (g : Group) :
    (Bgd.initial.afterGroups gs).accepts (makeByte false g) = isScalar (naturalValue 0 (gs ++ [g])) := by
  rw [Bgd.accepts, byteGroup_makeByte]
  exact (carries_run gs g).valid_eq

/-- Settles O47: the bytes before the last pack their groups, and the last one is judged by the value they carry. -/
theorem runIsJudgedByItsUnboundedValue : Obligations.RunIsJudgedByItsUnboundedValue := by
  intro gs g
  have herr : (Bgd.initial.afterGroups gs).err = 0 := Bgd.afterGroups_err gs Bgd.initial
  have hflag : byteFlag (makeByte false g) = false := byteFlag_makeByte false g
  have hstart : decodeStream (runOf gs g) =
      (decodeFrom (Bgd.initial.afterGroups gs) [] [makeByte false g]).2 :=
    congrArg Prod.snd (decodeFrom_continuations gs _ rfl [])
  rw [hstart, ← accepts_run]
  constructor
  · intro haccepts
    have hlegal := haccepts
    rw [accepts_run] at hlegal
    rw [decodeFrom_cons_of_accepts herr hflag haccepts, byteGroup_makeByte,
      (carries_run gs g).eq_of_lt (lt_of_isScalar hlegal),
      decodeFrom_nil_of_closed (d := (Bgd.initial.afterGroups gs).runEnded) herr rfl]
    rfl
  · intro hrejects
    rw [decodeFrom_cons_of_rejects herr hflag hrejects, Bgd.afterGroups_off, Bgd.initial_off, Nat.zero_add]

theorem decodeStream_encRun_of_scalar {v : Value} (h : isScalar v.toNat = true) :
    decodeStream (encRun v) = .ok [v.setWidth 21] := by
  have hvalue := naturalValue_runParts (lt_of_isScalar h)
  rw [encRun_eq_runOf, (runIsJudgedByItsUnboundedValue _ _).1 (hvalue ▸ h), hvalue, BitVec.ofNat_toNat]

theorem decodeStream_encRun_of_not_scalar {v : Value} (hfits : v.toNat < 0x200000) (h : isScalar v.toNat = false) :
    decodeStream (encRun v) = .err .invalidScalarValue ((lcl v).byteCount - 1) := by
  have hvalue := naturalValue_runParts hfits
  have hlength : (runParts v).1.length = (lcl v).byteCount - 1 := Nat.eq_sub_of_add_eq (runParts_length v)
  rw [encRun_eq_runOf, (runIsJudgedByItsUnboundedValue _ _).2 (hvalue ▸ h), hlength]

/-- Values that are no legal scalar values begin at the surrogates, whose runs have three bytes. -/
theorem byteCount_of_not_scalar {v : Value} (h : isScalar v.toNat = false) : (lcl v).byteCount = 3 := by
  have hge : 0x800 ≤ v.toNat := by
    rw [← Bool.not_eq_true, isScalar_iff] at h
    omega
  rcases lt_or_ge v.toNat 0x10000 with hthree | hfour
  · rw [lcl_of_lt_classFour hge hthree]
  · rw [lcl_of_classFour_le hfour]

/-- Settles O14. -/
theorem encOfNonScalarIsRejectedOnDecode : Obligations.EncOfNonScalarIsRejectedOnDecode := by
  intro v s hfits h
  refine ⟨⟨_, exec_enc_of_lt_capacity s hfits, EncResponse.emitBytes_encErr _ _,
    EncResponse.bytes_emitBytes_encRun _ v⟩, ?_⟩
  rw [decodeStream_encRun_of_not_scalar hfits h, byteCount_of_not_scalar h]

theorem legalText_cons (v : Value) (vs : List Value) :
    legalText (v :: vs) = (isScalar v.toNat && legalText vs) := List.all_cons

/-- A text comes back value by value, each run decoded before the rest. -/
theorem decodeStream_encRuns_of_text {vs : List Value} (h : legalText vs = true) :
    decodeStream (vs.flatMap encRun) = .ok (vs.map (BitVec.setWidth 21)) := by
  induction vs with
  | nil => rfl
  | cons v vs ih =>
    rw [legalText_cons, Bool.and_eq_true] at h
    obtain ⟨hv, hvs⟩ := h
    rw [List.flatMap_cons, decodeStream_append_of_ok (decodeStream_encRun_of_scalar hv), ih hvs]
    rfl

/-- The first value that is no legal scalar value stops the decoder, whatever follows. -/
theorem decodeStream_encRuns_of_no_text {vs : List Value} (hfits : ∀ v ∈ vs, v.toNat < 0x200000)
    (h : legalText vs = false) : ∃ k, decodeStream (vs.flatMap encRun) = .err .invalidScalarValue k := by
  induction vs with
  | nil => exact nomatch h
  | cons v vs ih =>
    obtain ⟨hv, hvs⟩ := List.forall_mem_cons.mp hfits
    rw [legalText_cons] at h
    rw [List.flatMap_cons]
    cases hscalar : isScalar v.toNat with
    | true =>
      rw [hscalar, Bool.true_and] at h
      obtain ⟨k, hk⟩ := ih hvs h
      rw [decodeStream_append_of_ok (decodeStream_encRun_of_scalar hscalar), hk]
      exact ⟨_, rfl⟩
    | false =>
      have hbad := decodeStream_encRun_of_not_scalar hv hscalar
      exact ⟨_, (firstInvalidRunDecidesTheStream _ _ _ hbad).2⟩

theorem setWidth_toNat_of_scalar {v : Value} (h : isScalar v.toNat = true) :
    (v.setWidth 21).toNat = v.toNat := by
  rw [BitVec.toNat_setWidth, Nat.mod_eq_of_lt (lt_of_isScalar h)]

/-- Settles O46. -/
theorem decodeInvertsEncodeOnTexts : Obligations.DecodeInvertsEncodeOnTexts := by
  constructor
  · intro vs h
    refine ⟨_, _, encodeStream_of_fits (fits_of_legalText h), decodeStream_encRuns_of_text h, ?_⟩
    rw [List.map_map]
    exact List.map_congr_left fun v hv => setWidth_toNat_of_scalar (List.all_eq_true.mp h v hv)
  · intro vs hfits h
    obtain ⟨k, hk⟩ := decodeStream_encRuns_of_no_text hfits h
    exact ⟨_, k, encodeStream_of_fits hfits, hk⟩

/-! ### The host's side -/

/-- In ERR the operations of a stream leave the registers. -/
theorem issue_decStreamOps_of_error (bs : List Byte) {s : State} (herr : s.bgd.err ≠ 0) :
    (issue (decStreamOps bs) s).1.bgd = s.bgd := by
  induction bs generalizing s with
  | nil =>
    rw [decStreamOps, List.map_nil, List.nil_append,
      issue_cons_of_next (exec_of_error herr (.inr ⟨0, rfl⟩)) rfl]
    rfl
  | cons b bs ih =>
    rw [decStreamOps, List.map_cons, List.cons_append, ← decStreamOps,
      issue_cons_of_next (exec_of_error herr (.inl rfl)) rfl]
    exact ih herr

/-- What the host has after a stream is what the loop gives: the registers, and the result it reads, the offset read
from the register at the end. -/
def HostAgrees (d : Bgd) (out : List Acc) (bs : List Byte) : Prop :=
  ∀ s : State, s.bgd = d →
    (issue (decStreamOps bs) s).1.bgd = (decodeFrom d out bs).1 ∧
    readDecode (issue (decStreamOps bs) s).1.bgd.errOff out (issue (decStreamOps bs) s).2 = (decodeFrom d out bs).2

/-- Issuing one byte outside ERR, and then the rest. -/
theorem issue_decStreamOps_cons {s : State} (herr : s.bgd.err = 0) (b : Byte) (bs : List Byte) :
    ∃ s' : State, s'.bgd = (s.bgd.consumeByte b).1 ∧
      issue (decStreamOps (b :: bs)) s =
        ((issue (decStreamOps bs) s').1, .decoder (s.bgd.consumeByte b).2 :: (issue (decStreamOps bs) s').2) :=
  ⟨_, rfl, issue_cons_of_next (exec_byte_of_noError (i := .decByte b) rfl herr) rfl _⟩

theorem issue_decStreamOps_nil {s : State} (herr : s.bgd.err = 0) :
    ∃ s' : State, s'.bgd = s.bgd.endStream.1 ∧
      issue (decStreamOps []) s = (s', [.decoder s.bgd.endStream.2]) :=
  ⟨_, rfl, issue_cons_of_next (exec_decEnd_of_noError 0 herr) rfl []⟩

theorem hostAgrees (d : Bgd) (out : List Acc) (bs : List Byte) (herr : d.err = 0) : HostAgrees d out bs := by
  refine stream_induction (P := HostAgrees) ?nil ?goesOn ?ends ?fails d out bs herr
  case nil =>
    rintro d out herr s rfl
    obtain ⟨s', hbgd, hissue⟩ := issue_decStreamOps_nil herr
    rw [hissue, hbgd]
    obtain ⟨hopen, hstep⟩ | ⟨hclosed, hstep⟩ := s.bgd.endStream_cases
    · rw [hstep, decodeFrom_nil_of_open herr hopen]
      exact ⟨rfl, rfl⟩
    · rw [hstep, decodeFrom_nil_of_closed herr hclosed]
      exact ⟨rfl, rfl⟩
  case goesOn =>
    rintro d out b bs herr hflag ih s rfl
    obtain ⟨s', hbgd, hissue⟩ := issue_decStreamOps_cons herr b bs
    rw [Bgd.consumeByte_of_flag b _ hflag] at hbgd hissue
    rw [hissue, decodeFrom_cons_of_flag herr hflag]
    exact ih s' hbgd
  case ends =>
    rintro d out b bs herr hflag h ih s rfl
    obtain ⟨s', hbgd, hissue⟩ := issue_decStreamOps_cons herr b bs
    rw [Bgd.consumeByte_of_accepts hflag h] at hbgd hissue
    rw [hissue, decodeFrom_cons_of_accepts herr hflag h]
    exact ih s' hbgd
  case fails =>
    rintro d out b bs herr hflag h s rfl
    obtain ⟨s', hbgd, hissue⟩ := issue_decStreamOps_cons herr b bs
    rw [Bgd.consumeByte_of_rejects hflag h] at hbgd hissue
    have hraised : s'.bgd.err ≠ 0 := by simp [hbgd]
    rw [hissue, decodeFrom_cons_of_rejects herr hflag h, issue_decStreamOps_of_error bs hraised, hbgd]
    exact ⟨rfl, rfl⟩

/-- Settles O45: the host agrees with the loop, whose three outcomes leave the initial state or ERR. -/
theorem hostObtainsDecodeStream : Obligations.HostObtainsDecodeStream := by
  intro bs s hs
  obtain ⟨hbgd, hread⟩ := hostAgrees Bgd.initial [] bs rfl s hs
  refine ⟨hread, ?_⟩
  rw [hbgd, decodeStream]
  generalize hresult : decodeFrom Bgd.initial [] bs = result
  have houtcome : StreamOutcome Bgd.initial bs result := hresult ▸ decodeStream_outcome bs
  cases houtcome with
  | complete values hend => exact ⟨fun _ _ => rfl, fun _ _ h => nomatch h⟩
  | truncated d' hend herr hoff =>
    refine ⟨fun _ h => (nomatch h), fun kind pos h => ?_⟩
    cases h
    exact ⟨(Bgd.condition_eq_err_iff d').mpr (by simp [herr]), hoff⟩
  | invalid d' k hk herr hoff =>
    refine ⟨fun _ h => (nomatch h), fun kind pos h => ?_⟩
    cases h
    exact ⟨(Bgd.condition_eq_err_iff d').mpr (by simp [herr]), hoff⟩

end Sys2Proof.Machine
end
